-- ==== Sys2Proof/Word.lean ====
section
/-! DEFINITION. The widths the spec fixes: a frame byte, a register value, a logical register address, a millisecond time
(spec/00_scope.md rules R7 and R8). -/

namespace Sys2Proof

/-- A frame byte or a device address, 8 bits (R7). -/
abbrev Byte := BitVec 8

/-- A register value or a CRC, u16 (R7). -/
abbrev Word16 := BitVec 16

/-- A logical register address, u32 (R7). -/
abbrev LogAddr := BitVec 32

/-- A time or a timestamp in milliseconds, TIME_W = 32 bits, and the error counter, ERRCNT_W = 32 bits (R7). -/
abbrev Millis := BitVec 32

end Sys2Proof
end

