-- ==== Sys2Proof/Config.lean ====
section
/-! DEFINITION. The block's named constants (spec/00_scope.md rule R6) and the values the spec leaves open (spec/00_scope.md rule R9
`draw`, spec/93_implementation_defined.md U2, U4, U6, U8), each a constant without a body: a statement about one holds for every value. -/

namespace Sys2Proof.Config

/-- CRC_POLY, the reflected generator polynomial (R6). -/
def crcPoly : Word16 := 0xA001#16

/-- CRC_SEED, the accumulator's initial value (R6). -/
def crcSeed : Word16 := 0xFFFF#16

/-- FRAME_LEN, the fixed frame threshold in bytes (R6). -/
def frameLen : Nat := 8

/-- REG_BASE, the logical address of register index 0 (R6). -/
def regBase : Nat := 40001

/-- REG_COUNT, the registers of the reference register store (R6). -/
def regCount : Nat := 20

/-- MAX_READ_COUNT, the largest FC3 and FC4 count (R6). -/
def maxReadCount : Nat := 125

/-- MAX_WRITE_COUNT, the largest FC16 count (R6). -/
def maxWriteCount : Nat := 123

/-- EXC_FLAG, the bit OR-ed into the function code of an exception reply (R6). -/
def excFlag : Byte := 0x80#8

/-- ERROR_WINDOW_MS, the error counter's window (R6). -/
def errorWindowMs : Nat := 5000

/-- ERROR_THRESHOLD, the error count that forces a reset (R6). -/
def errorThreshold : Nat := 3

/-- FORCED_INTERVAL_MS, the preventive reset interval (R6). -/
def forcedIntervalMs : Nat := 10000

/-- INACTIVITY_TIMEOUT_MS, the inactivity timeout (R6). -/
def inactivityTimeoutMs : Nat := 2500

/-- The largest value of the error counter, 2^32 - 1, at which it saturates (R24, R122). -/
def errCntMax : Nat := 2 ^ 32 - 1

/-- FREE VALUE: the content of frame-buffer byte `i` when nothing has written it (R21, R144, U4; log 8). -/
opaque bufResetByte : Nat → Byte

/-- FREE VALUE: the byte drawn by the `k`-th draw, a read of a frame-buffer index from FRAME_LEN on (R35, U2; log 9). -/
opaque freeByte : Nat → Byte

/-- FREE VALUE: the u16 the register store answers at the `k`-th draw (R36, R37, R38, U6, U7; log 11, log 12). -/
opaque freeWord : Nat → Word16

/-- FREE VALUE: the transmit sink's answer at the `k`-th draw, taken into the range of R106 where it is used (U8; log 14). -/
opaque freeCount : Nat → Nat

end Sys2Proof.Config
end

