-- ==== Sys2Proof/Syntax.lean ====
section
/-! DEFINITION. The instructions of the block, one constructor per row of spec/opcode_table.json: the five request functions (spec/30_encoding.md
rules R58 to R62) and the host operations (rules R69 and R70); and the two encoded forms they are read from. -/

namespace Sys2Proof

/-- The buffered request frame, byte offsets 0 to 7 in wire order (R58). -/
structure Frame where
  /-- Offset 0, the slave address. -/
  addr : Byte
  /-- Offset 1, the function code. -/
  fc : Byte
  /-- Offset 2, high byte of the first operand. -/
  p0 : Byte
  /-- Offset 3, low byte of the first operand. -/
  p1 : Byte
  /-- Offset 4, high byte of the second operand. -/
  p2 : Byte
  /-- Offset 5, low byte of the second operand. -/
  p3 : Byte
  /-- Offset 6, low byte of the CRC; FC16 reads it as its byte count too. -/
  crcLo : Byte
  /-- Offset 7, high byte of the CRC; FC16 reads it as its first payload byte too. -/
  crcHi : Byte
  deriving DecidableEq, Repr

/-- The typed arguments of a host operation (R69). -/
inductive HostArgs where
  /-- CLOSE and MARK_ERROR take none. -/
  | noArgs
  /-- OPEN takes the device address and the frame buffer capacity. -/
  | config (addr : Byte) (cap : Nat)
  /-- MARK_ACTIVITY and TICK take the time. -/
  | time (now : Millis)
  /-- DELIVER takes the time and the chunk of bytes. -/
  | chunk (now : Millis) (bytes : List Byte)
  deriving DecidableEq, Repr

/-- An encoded host operation: the 3-bit selector OP and the typed arguments (R69; log 3). -/
structure HostCall where
  /-- The selector OP. -/
  op : BitVec 3
  /-- The arguments. -/
  args : HostArgs
  deriving DecidableEq, Repr

/-- What the decoder reads: the bytes of a request frame, or a host call (spec/30_encoding.md). -/
inductive RawInstr where
  /-- A request, as its bytes in wire order. -/
  | frame (bytes : List Byte)
  /-- A host operation. -/
  | host (call : HostCall)
  deriving DecidableEq, Repr

/-- The instructions, one constructor per row of spec/opcode_table.json. -/
inductive Instr where
  /-- READ_HOLDING, FC 0x03 (R94). -/
  | readHolding (addr : Byte) (start count : Word16) (crcLo crcHi : Byte)
  /-- READ_INPUT, FC 0x04 (R95). -/
  | readInput (addr : Byte) (start count : Word16) (crcLo crcHi : Byte)
  /-- WRITE_SINGLE, FC 0x06 (R96). -/
  | writeSingle (addr : Byte) (address value : Word16) (crcLo crcHi : Byte)
  /-- WRITE_MULTIPLE, FC 0x10 (R97); `crcLo` is its byte count too. -/
  | writeMultiple (addr : Byte) (start count : Word16) (crcLo crcHi : Byte)
  /-- ILLEGAL, any other FC (R98); its operands are not decoded, only kept. -/
  | illegal (addr fc : Byte) (p q : Word16) (crcLo crcHi : Byte)
  /-- OPEN, selector 0b000 (R145). -/
  | openContext (addr : Byte) (cap : Nat)
  /-- CLOSE, selector 0b001 (R146). -/
  | closeContext
  /-- DELIVER, selector 0b010 (R78). -/
  | deliver (now : Millis) (bytes : List Byte)
  /-- MARK_ACTIVITY, selector 0b011 (R121). -/
  | markActivity (now : Millis)
  /-- MARK_ERROR, selector 0b100 (R122). -/
  | markError
  /-- TICK, selector 0b101 (R110). -/
  | tick (now : Millis)
  /-- RESERVED_HOSTOP, selector 0b11x with any arguments (R70). -/
  | reservedHostop (x : Bool) (args : HostArgs)
  deriving DecidableEq, Repr

end Sys2Proof
end

