-- ==== Sys2Proof/Machine/State.lean ====
section
/-! DEFINITION. Every piece of state the spec gives the block (spec/10_state.md), the ports' partners as plain data, and the reasons a step stops
(spec/60_exceptions.md rules R128, R129). -/

namespace Sys2Proof.Machine

/-- A byte memory: (index, byte) cells with strictly rising indices; an index not listed has nothing written (log 8). -/
abbrev Memory := List Host.Cell

/-- `ctx.state`, the four values of its two bits (R18). -/
inductive AsmState where
  /-- 0: waiting for a byte equal to the device address. -/
  | idle
  /-- 1: a frame is being buffered. -/
  | receiving
  /-- 2: a validated frame is being dispatched. -/
  | processing
  /-- 3: no rule writes it; the catch-all applies (R86). -/
  | illegal
  deriving DecidableEq, Repr

/-- The device context `ctx` (R15 to R21). -/
structure Ctx where
  /-- `ctx.open` (R15). -/
  isOpen : Bool
  /-- `ctx.dev_addr` (R16). -/
  devAddr : Byte
  /-- `ctx.buf_cap` (R17). -/
  bufCap : Nat
  /-- `ctx.state` (R18). -/
  asm : AsmState
  /-- `ctx.len` (R19). -/
  len : Nat
  /-- `ctx.crc` (R20). -/
  crc : Word16
  /-- `ctx.buf` (R21). -/
  buf : Memory
  deriving DecidableEq, Repr

/-- The recovery state `sup` (R23 to R26). -/
structure Sup where
  /-- `sup.last_act` (R23). -/
  lastAct : Millis
  /-- `sup.err_cnt` (R24). -/
  errCnt : Millis
  /-- `sup.win_start` (R25). -/
  winStart : Millis
  /-- `sup.last_forced` (R26). -/
  lastForced : Millis
  deriving DecidableEq, Repr

/-- What a port's partner does with one transaction: it answers, or, against its duty (R149), it starts a host operation first (log 15). -/
inductive PartnerReply (α : Type) where
  /-- The partner answers. -/
  | answers (a : α)
  /-- The partner starts a host operation while the block waits on it. -/
  | calls
  deriving DecidableEq, Repr

/-- The partners of the ports, agents of the environment (R11, R22): the replies they will give, in order, and the registers of the register
store whose content is known (log 11 to log 15). -/
structure Env where
  /-- The register store's next replies to RegRead (R36). -/
  readReplies : List (PartnerReply Word16)
  /-- The register store's next replies to RegWrite (R37). -/
  writeReplies : List (PartnerReply Word16)
  /-- The transmit sink's next replies, its `bytes_sent` (R106). -/
  sentReplies : List (PartnerReply Nat)
  /-- The byte source's next reactions to RxRearm (R118). -/
  rearmReplies : List (PartnerReply Unit)
  /-- The registers of the register map the environment declares known, (logical address, value), addresses strictly rising (R38; log 13). -/
  store : List (Nat × Word16)
  deriving DecidableEq, Repr

/-- The status OPEN returns (R126, R145). -/
inductive OpenStatus where
  /-- OK. -/
  | ok
  /-- FAIL_NO_SLOT. -/
  | failNoSlot
  deriving DecidableEq, Repr

/-- A transaction as the block issues it. -/
inductive PortRequest where
  /-- RegRead(la). -/
  | regRead (la : LogAddr)
  /-- RegWrite(la, v). -/
  | regWrite (la : LogAddr) (v : Word16)
  /-- Transmit(L). -/
  | transmit (bytes : List Byte)
  /-- RxRearm(). -/
  | rxRearm
  deriving DecidableEq, Repr

/-- An output of the block (R131), with the answer it received (log 16). -/
inductive PortEvent where
  /-- RegRead(la), answered `v`. -/
  | regRead (la : LogAddr) (v : Word16)
  /-- RegWrite(la, v), answered `stored`. -/
  | regWrite (la : LogAddr) (v stored : Word16)
  /-- Transmit(L), answered `sent`. -/
  | transmit (bytes : List Byte) (sent : Nat)
  /-- RxRearm(). -/
  | rxRearm
  /-- OPEN's status. -/
  | openStatus (status : OpenStatus)
  /-- A transaction during which its partner started a host operation. -/
  | unanswered (request : PortRequest)
  deriving DecidableEq, Repr

/-- The fault reasons, the value of the sticky mark (R28, R128). -/
inductive FaultReason where
  /-- REENTRANT. -/
  | reentrant
  /-- BUF_OVERREAD at a buffer index. -/
  | bufOverread (index : Nat)
  deriving DecidableEq, Repr

/-- The refusal reasons, the value of the sticky refusal mark (R129). -/
inductive RefusalReason where
  /-- RESERVED_OP. -/
  | reservedOp
  /-- BAD_CAP. -/
  | badCap
  /-- A host call whose arguments do not have the types of its selector (log 3). -/
  | illTyped (op : BitVec 3)
  deriving DecidableEq, Repr

/-- The whole state. -/
structure State where
  /-- The device context. -/
  ctx : Ctx
  /-- The recovery state. -/
  sup : Sup
  /-- The sticky fault mark (R28). -/
  fault : Option FaultReason
  /-- The sticky refusal mark (R129). -/
  refusal : Option RefusalReason
  /-- An operation is in progress (R29). -/
  busy : Bool
  /-- The bytes of the DELIVER in progress not fed yet (R78; log 20). -/
  rest : List Byte
  /-- The ports' partners. -/
  env : Env
  /-- How many free values have been drawn (log 10). -/
  draws : Nat
  /-- The host operations the environment has issued and the block has not performed, next first (log 1). -/
  inbox : List HostCall
  /-- The port events so far, oldest first (R131; log 16). -/
  trace : List PortEvent
  deriving DecidableEq, Repr

/-- Why the machine stops with a fault (R128). Each carries the state the fault leaves: the updates made before it, and the mark. -/
inductive Fault where
  /-- REENTRANT: raised by every host operation that starts while `busy = 1` (R78, R110, R121, R122, R145, R146), by a byte that meets PROCESSING
  (R85) and by a partner that calls back (R149). Safe: the source says only that reentry corrupts state. -/
  | reentrant (final : State)
  /-- BUF_OVERREAD: raised by `bufRead` at an index from the capacity on (R35), so by WRITE_MULTIPLE only. Safe: the source gives no meaning to it. -/
  | bufOverread (index : Nat) (final : State)
  deriving DecidableEq, Repr

/-- Why the model gives an operation no meaning (R129). -/
inductive Refusal where
  /-- An instruction not modelled yet, by its mnemonic: raised by no arm of `exec` now. Safe. -/
  | notModelled (mnemonic : String)
  /-- RESERVED_OP: raised by RESERVED_HOSTOP (R70). Safe. -/
  | reservedOp (final : State)
  /-- BAD_CAP: raised by OPEN with a capacity below FRAME_LEN (R145). Safe. -/
  | badCap (final : State)
  /-- A host call whose arguments do not have the types R69 gives its selector: raised by the fetch. Safe (log 3). -/
  | illTyped (op : BitVec 3) (final : State)
  deriving DecidableEq, Repr

/-- Power-on reset at time `now0` (R144); what R144 leaves unspecified is named in log 5, log 6 and log 8. -/
def State.powerOn (now0 : Millis) : State where
  ctx :=
    { isOpen := false, devAddr := 0x00#8, bufCap := Config.frameLen, asm := .idle, len := 0, crc := Config.crcSeed, buf := [] }
  sup := { lastAct := now0, errCnt := 0#32, winStart := now0, lastForced := now0 }
  fault := none
  refusal := none
  busy := false
  rest := []
  env := { readReplies := [], writeReplies := [], sentReplies := [], rearmReplies := [], store := [] }
  draws := 0
  inbox := []
  trace := []

/-- The machine right after reset, with time input 0 (R144; log 7). -/
def State.reset : State := State.powerOn 0#32

end Sys2Proof.Machine
end

