-- ==== Sys2Proof/Machine/Flags.lean ====
section
/-! DEFINITION. The conditions the rules test. The block has no flags register (spec/10_state.md rule R13): these comparisons are all its conditions,
each computed where it is used. -/

namespace Sys2Proof.Machine

/-- A read request's count is in `1 .. MAX_READ_COUNT` (R94). -/
def readCountLegal (count : Word16) : Bool := decide (1 ≤ count.toNat) && decide (count.toNat ≤ Config.maxReadCount)

/-- A multiple write's count is in `1 .. MAX_WRITE_COUNT` and its byte count is twice the count (R97). -/
def writeCountLegal (count : Word16) (byteCount : Byte) : Bool :=
  decide (1 ≤ count.toNat) && decide (count.toNat ≤ Config.maxWriteCount) && byteCount.toNat == 2 * count.toNat

/-- `elapsed(now, t) = (now - t) mod 2^32` (R109). -/
def elapsed (now t : Millis) : Nat := (now - t).toNat

/-- The error window is over: `elapsed >= ERROR_WINDOW_MS` (R111). -/
def windowOver (now : Millis) (u : Sup) : Bool := decide (Config.errorWindowMs ≤ elapsed now u.winStart)

/-- The error count has reached the threshold (R112). -/
def thresholdReached (u : Sup) : Bool := decide (Config.errorThreshold ≤ u.errCnt.toNat)

/-- The preventive interval is exceeded, strictly (R113). -/
def forcedIntervalOver (now : Millis) (u : Sup) : Bool := decide (Config.forcedIntervalMs < elapsed now u.lastForced)

/-- The inactivity timeout is exceeded, strictly (R114). -/
def inactive (now : Millis) (u : Sup) : Bool := decide (Config.inactivityTimeoutMs < elapsed now u.lastAct)

end Sys2Proof.Machine
end

