-- ==== Sys2Proof/Machine/Bytes.lean ====
section
/-! DEFINITION. Byte order and operand assembly: hi8, lo8, be16, le16 (spec/00_scope.md rule R8; spec/20_memory.md rules R39, R40) and a frame's
operand fields (spec/30_encoding.md rule R59). -/

namespace Sys2Proof

/-- `hi8(v) = v[15:8]` (R8). -/
def hi8 (v : Word16) : Byte := v.extractLsb' 8 8

/-- `lo8(v) = v[7:0]` (R8). -/
def lo8 (v : Word16) : Byte := v.extractLsb' 0 8

/-- `be16(a, b)`: `a` is the high byte, `b` the low byte (R8). -/
def be16 (a b : Byte) : Word16 := (a.setWidth 16 <<< 8) ||| b.setWidth 16

/-- `le16(a, b)`: `a` is the low byte, `b` the high byte (R8). -/
def le16 (a b : Byte) : Word16 := (b.setWidth 16 <<< 8) ||| a.setWidth 16

/-- A value on the wire, high byte first (R39). -/
def beBytes (v : Word16) : List Byte := [hi8 v, lo8 v]

/-- A CRC on the wire, low byte first (R40). -/
def leBytes (v : Word16) : List Byte := [lo8 v, hi8 v]

/-- The eight bytes of a frame in wire order (R58). -/
def Frame.bytes (f : Frame) : List Byte := [f.addr, f.fc, f.p0, f.p1, f.p2, f.p3, f.crcLo, f.crcHi]

/-- The bytes a frame's CRC covers, offsets 0 to 5 (R58). -/
def Frame.body (f : Frame) : List Byte := [f.addr, f.fc, f.p0, f.p1, f.p2, f.p3]

/-- The first 16-bit operand, offsets 2 and 3 (R59). -/
def Frame.first (f : Frame) : Word16 := be16 f.p0 f.p1

/-- The second 16-bit operand, offsets 4 and 5 (R59). -/
def Frame.second (f : Frame) : Word16 := be16 f.p2 f.p3

/-- The CRC field, offsets 6 and 7, low byte first (R40, R59). -/
def Frame.rxCrc (f : Frame) : Word16 := le16 f.crcLo f.crcHi

end Sys2Proof
end

