-- ==== Sys2Proof/Machine/Crc.lean ====
section
/-! DEFINITION. The CRC16 engine (spec/40_crc.md). -/

namespace Sys2Proof.Machine

/-- One pass of the bit loop of R72: shift right, and XOR the polynomial when the bit shifted out is 1. -/
def crcShift (c : Word16) : Word16 := if c.getLsbD 0 then (c >>> 1) ^^^ Config.crcPoly else c >>> 1

/-- `n` passes of the bit loop. -/
def crcShifts : Nat → Word16 → Word16
  | 0, c => c
  | n + 1, c => crcShifts n (crcShift c)

/-- `crc16_update(c, b)` (R72). -/
def crc16Update (c : Word16) (b : Byte) : Word16 := crcShifts 8 (c ^^^ b.setWidth 16)

/-- `crc16(L)` (R73, R75). -/
def crc16 (bytes : List Byte) : Word16 := bytes.foldl crc16Update Config.crcSeed

/-- A byte list with its CRC appended, low byte first (R40, R104). -/
def withCrc (bytes : List Byte) : List Byte := bytes ++ leBytes (crc16 bytes)

end Sys2Proof.Machine
end

