-- ==== Sys2Proof/Machine/Ops.lean ====
section
/-! DEFINITION. The named operations: cells and the frame buffer (spec/20_memory.md rule R35), faults and refusals (spec/60_exceptions.md rules
R128, R129), the ports (R36, R37, R106, R118), the replies (spec/43_response.md; an exception reply is `sendException`, R135) and the forced reset (R117). -/

namespace Sys2Proof.Machine

/-- The outcome of an operation. -/
abbrev Result := Host.Outcome State Fault Refusal

/-- Continue after a next state; a fault or a refusal ends the operation (R128, R129). -/
def andThen (r : Result) (f : State → Result) : Result :=
  match r with
  | .next s => f s
  | .fault e => .fault e
  | .refused e => .refused e

/-- The outcome of an operation that answers a state or a fault. -/
def ofExcept : Except Fault State → Result
  | .ok s => .next s
  | .error e => .fault e

/-! ### Cells: sparse data by a rising key -/

/-- The value listed at key `k`. -/
def cellGet {α : Type} : List (Nat × α) → Nat → Option α
  | [], _ => none
  | (a, v) :: rest, k => if a = k then some v else cellGet rest k

/-- List value `v` at key `k`, keeping the keys strictly rising. -/
def cellSet {α : Type} : List (Nat × α) → Nat → α → List (Nat × α)
  | [], k, v => [(k, v)]
  | (a, w) :: rest, k, v =>
    if k < a then (k, v) :: (a, w) :: rest
    else if k = a then (k, v) :: rest
    else (a, w) :: cellSet rest k v

/-- The keys are strictly rising. -/
def cellsWf {α : Type} : List (Nat × α) → Bool
  | [] => true
  | [_] => true
  | (a, _) :: (b, w) :: rest => decide (a < b) && cellsWf ((b, w) :: rest)

/-- The canonical form of a byte memory: strictly rising indices. An index not listed has no value, so no entry can equal it (log 8). -/
def Memory.wf (m : Memory) : Bool := cellsWf m

/-- What has been written at index `i`, if anything. -/
def Memory.read? (m : Memory) (i : Nat) : Option Byte := cellGet m i

/-- Write byte `b` at index `i`. -/
def Memory.write (m : Memory) (i : Nat) (b : Byte) : Memory := cellSet m i b

/-! ### Plain state updates -/

/-- Record a port event. -/
def State.emit (s : State) (e : PortEvent) : State := { s with trace := s.trace ++ [e] }

/-- Count one draw. -/
def State.drawn (s : State) : State := { s with draws := s.draws + 1 }

/-- `busy <- b` (R29). -/
def State.setBusy (s : State) (b : Bool) : State := { s with busy := b }

/-- Record the bytes of the chunk not fed yet. -/
def State.setRest (s : State) (bytes : List Byte) : State := { s with rest := bytes }

/-- `ctx.state <- S` (R9). -/
def State.setAsm (s : State) (a : AsmState) : State := { s with ctx := { s.ctx with asm := a } }

/-- `ctx.state <- IDLE; ctx.len <- 0` (R84, R86, R117). -/
def State.toIdle (s : State) : State := { s with ctx := { s.ctx with asm := .idle, len := 0 } }

/-- `ctx.crc <- c`. -/
def State.setCrc (s : State) (c : Word16) : State := { s with ctx := { s.ctx with crc := c } }

/-- `ctx.buf[i] <- b; ctx.len <- i + 1`, the write of R81 and R82. -/
def State.putByte (s : State) (i : Nat) (b : Byte) : State :=
  { s with ctx := { s.ctx with buf := s.ctx.buf.write i b, len := i + 1 } }

/-- `sup.last_act <- now` (R121). -/
def State.touch (s : State) (now : Millis) : State := { s with sup := { s.sup with lastAct := now } }

/-- Replace the ports' partners. -/
def State.setEnv (s : State) (e : Env) : State := { s with env := e }

/-! ### Faults and refusals -/

/-- The fault outcome a reason stands for, with the state it leaves. -/
def faultOf (r : FaultReason) (final : State) : Fault :=
  match r with
  | .reentrant => .reentrant final
  | .bufOverread i => .bufOverread i final

/-- The refusal outcome a reason stands for, with the state it leaves. -/
def refusalOf (r : RefusalReason) (final : State) : Refusal :=
  match r with
  | .reservedOp => .reservedOp final
  | .badCap => .badCap final
  | .illTyped op => .illTyped op final

/-- `raise Fault(reason)`: the updates made so far stay, the sticky mark is set (R128; log 17). -/
def raiseFault (r : FaultReason) (s : State) : Fault := faultOf r { s with fault := some r }

/-- `refuse(reason)`: the refusal mark is set (R129; log 18). -/
def refuse (r : RefusalReason) (s : State) : Result := .refused (refusalOf r { s with refusal := some r })

/-- The check every host operation starts with: `if busy = 1: raise Fault(REENTRANT)` (R29). -/
def unlessBusy (s : State) (op : State → Result) : Result :=
  if s.busy then .fault (raiseFault .reentrant s) else op s

/-! ### The frame buffer -/

/-- Frame-buffer byte `i`, or its unspecified reset content where nothing has been written (R21; log 8). -/
def bufByte (s : State) (i : Nat) : Byte := (s.ctx.buf.read? i).getD (Config.bufResetByte i)

/-- `BufRead(i)` (R35). -/
def bufRead (i : Nat) (s : State) : Except Fault (Byte × State) :=
  if i < Config.frameLen then .ok (bufByte s i, s)
  else if i < s.ctx.bufCap then .ok (Config.freeByte s.draws, s.drawn)
  else .error (raiseFault (.bufOverread i) s)

/-- The frame in buffer bytes 0 to 7 (R58, R83, R92). -/
def bufFrame (s : State) : Frame :=
  ⟨bufByte s 0, bufByte s 1, bufByte s 2, bufByte s 3, bufByte s 4, bufByte s 5, bufByte s 6, bufByte s 7⟩

/-! ### The ports -/

/-- A partner starts a host operation during a transaction: the operation starts while `busy = 1` (R29, R149; log 15). -/
def calledBack (request : PortRequest) (s : State) : Fault := raiseFault .reentrant (s.emit (.unanswered request))

/-- The reference register store has a register at `la`, 40001 .. 40020 (R38). -/
def inRegisterMap (la : LogAddr) : Bool := decide (Config.regBase ≤ la.toNat) && decide (la.toNat < Config.regBase + Config.regCount)

/-- The value of the register at `la`, where the environment declares it known; nothing is known outside the register map (R38; log 13). -/
def knownRegister (store : List (Nat × Word16)) (la : LogAddr) : Option Word16 :=
  if inRegisterMap la then cellGet store la.toNat else none

/-- The store after it answered an access at `la` with `v`, the value read or the value stored: a known register holds it. The effect of any other
access, a read or a write, is not specified (R38, R45, R52), and the model's choice is that no register is known after it (DESIGN CHOICE, log 13). -/
def storeAfter (store : List (Nat × Word16)) (la : LogAddr) (v : Word16) : List (Nat × Word16) :=
  if (knownRegister store la).isSome then cellSet store la.toNat v else []

/-- `RegRead(la)` (R36): the next reply, else the known register, else a free value. Whether a read changes the store is left to the store (R45): by the
model's choice a read of a known register changes nothing but what the reply says, after a read of any other none is known (DESIGN CHOICE, log 13), and so
after a read whose partner calls back (DESIGN CHOICE, log 15). -/
def regRead (la : LogAddr) (s : State) : Except Fault (Word16 × State) :=
  match s.env.readReplies with
  | .calls :: later => .error (calledBack (.regRead la) (s.setEnv { s.env with readReplies := later, store := [] }))
  | .answers v :: later =>
    .ok (v, (s.setEnv { s.env with readReplies := later, store := storeAfter s.env.store la v }).emit (.regRead la v))
  | [] =>
    match knownRegister s.env.store la with
    | some v => .ok (v, s.emit (.regRead la v))
    | none => .ok (Config.freeWord s.draws, (s.drawn.setEnv { s.env with store := [] }).emit (.regRead la (Config.freeWord s.draws)))

/-- `RegWrite(la, v)` (R37): the store's answer is recorded in the trace and discarded by the block. Whether a write whose partner calls back before it
answers was stored is not said: by the model's choice no register is known after it (DESIGN CHOICE, log 15). -/
def regWrite (la : LogAddr) (v : Word16) (s : State) : Except Fault State :=
  match s.env.writeReplies with
  | .calls :: later => .error (calledBack (.regWrite la v) (s.setEnv { s.env with writeReplies := later, store := [] }))
  | .answers stored :: later =>
    .ok ((s.setEnv { s.env with writeReplies := later, store := storeAfter s.env.store la stored }).emit (.regWrite la v stored))
  | [] =>
    match knownRegister s.env.store la with
    | some _ => .ok ((s.setEnv { s.env with store := storeAfter s.env.store la v }).emit (.regWrite la v v))
    | none => .ok ((s.drawn.setEnv { s.env with store := [] }).emit (.regWrite la v (Config.freeWord s.draws)))

/-- `Transmit(L)` (R106): the answer is in `0 .. |L|`; the block ignores it (R107). -/
def transmit (bytes : List Byte) (s : State) : Except Fault State :=
  match s.env.sentReplies with
  | .calls :: later => .error (calledBack (.transmit bytes) (s.setEnv { s.env with sentReplies := later }))
  | .answers n :: later =>
    .ok ((s.setEnv { s.env with sentReplies := later }).emit (.transmit bytes (min n bytes.length)))
  | [] => .ok (s.drawn.emit (.transmit bytes (min (Config.freeCount s.draws) bytes.length)))

/-- `RxRearm()` (R118). -/
def rxRearm (s : State) : Except Fault State :=
  match s.env.rearmReplies with
  | .calls :: later => .error (calledBack .rxRearm (s.setEnv { s.env with rearmReplies := later }))
  | .answers _ :: later => .ok ((s.setEnv { s.env with rearmReplies := later }).emit .rxRearm)
  | [] => .ok (s.emit .rxRearm)

/-! ### Replies -/

/-- The bytes of a reply: device address, function byte, payload and CRC (R104). -/
def replyBytes (s : State) (fc : Byte) (payload : List Byte) : List Byte := withCrc ([s.ctx.devAddr, fc] ++ payload)

/-- `SEND(fc, payload)` (R104). -/
def send (fc : Byte) (payload : List Byte) (s : State) : Result := ofExcept (transmit (replyBytes s fc payload) s)

/-- The Modbus exception codes (R123). -/
inductive ExceptionCode where
  | illegalFunction
  | illegalDataAddress
  | illegalDataValue
  | slaveDeviceFailure
  | acknowledge
  | slaveDeviceBusy
  | negativeAcknowledge
  | memoryParityError
  deriving DecidableEq, Repr

/-- The numbers of the exception codes (R123). -/
def exceptionByte : ExceptionCode → Byte
  | .illegalFunction => 1#8
  | .illegalDataAddress => 2#8
  | .illegalDataValue => 3#8
  | .slaveDeviceFailure => 4#8
  | .acknowledge => 5#8
  | .slaveDeviceBusy => 6#8
  | .negativeAcknowledge => 7#8
  | .memoryParityError => 8#8

/-- TAKING AN EXCEPTION, `SEND_EXCEPTION(fc, code)`: the reply, and nothing saved (R105, R135). -/
def sendException (fc : Byte) (code : ExceptionCode) (s : State) : Result :=
  send (fc ||| Config.excFlag) [exceptionByte code] s

/-- The return from a dispatch, after a normal or an exception reply: the assembler is IDLE with length 0 (R84, R136). -/
def endDispatch (s : State) : State := s.toIdle

/-! ### The reset action -/

/-- `FORCE_RESET()` (R117). -/
def forceReset (s : State) : Except Fault State := rxRearm (s.toIdle.setCrc Config.crcSeed)

end Sys2Proof.Machine
end

