-- ==== Sys2Proof/Machine/Operands.lean ====
section
/-! DEFINITION. The operands of a request: its register addresses (spec/20_memory.md rule R46), the values a read collects (spec/42_dispatch.md rule
R94) and the payload values a multiple write takes from the frame buffer (R97). -/

namespace Sys2Proof.Machine

/-- The logical address of register `i` of a request: `REG_BASE + start + i` (R46, R93). -/
def regAddr (start : Word16) (i : Nat) : LogAddr := BitVec.ofNat 32 (Config.regBase + start.toNat + i)

/-- `RegRead` of the `n` registers from index `i` on, in ascending order (R51, R94). -/
def readRegs (start : Word16) : (n i : Nat) → State → Except Fault (List Word16 × State)
  | 0, _, s => .ok ([], s)
  | n + 1, i, s =>
    match regRead (regAddr start i) s with
    | .error e => .error e
    | .ok (v, s1) =>
      match readRegs start n (i + 1) s1 with
      | .error e => .error e
      | .ok (vs, s2) => .ok (v :: vs, s2)

/-- The payload value of register `i`: `be16(BufRead(7 + 2i), BufRead(8 + 2i))` (R97). -/
def payloadValue (i : Nat) (s : State) : Except Fault (Word16 × State) :=
  match bufRead (7 + 2 * i) s with
  | .error e => .error e
  | .ok (hi, s1) =>
    match bufRead (8 + 2 * i) s1 with
    | .error e => .error e
    | .ok (lo, s2) => .ok (be16 hi lo, s2)

/-- `RegWrite` of the `n` registers from index `i` on, each with its payload value, in ascending order (R51, R97). -/
def writeRegs (start : Word16) : (n i : Nat) → State → Except Fault State
  | 0, _, s => .ok s
  | n + 1, i, s =>
    match payloadValue i s with
    | .error e => .error e
    | .ok (v, s1) =>
      match regWrite (regAddr start i) v s1 with
      | .error e => .error e
      | .ok s2 => writeRegs start n (i + 1) s2

end Sys2Proof.Machine
end

