-- ==== Sys2Proof/Machine/Requests.lean ====
section
/-! DEFINITION. The request functions and the dispatcher (spec/42_dispatch.md). -/

namespace Sys2Proof.Machine

/-- The register values of a read, or exception 3 before any RegRead (R94); `fc` is the request's function code. -/
def readRequest (fc : Byte) (start count : Word16) (s : State) : Result :=
  if readCountLegal count then
    match readRegs start count.toNat 0 s with
    | .error e => .fault e
    | .ok (vs, s1) => send fc (BitVec.ofNat 8 (2 * count.toNat) :: vs.flatMap beBytes) s1
  else sendException fc .illegalDataValue s

/-- READ_HOLDING (R94). -/
def execReadHolding (start count : Word16) (s : State) : Result := readRequest 0x03#8 start count s

/-- READ_INPUT (R95): the same handler, answering with its own function code. -/
def execReadInput (start count : Word16) (s : State) : Result := readRequest 0x04#8 start count s

/-- WRITE_SINGLE (R96). -/
def execWriteSingle (address value : Word16) (s : State) : Result :=
  match regWrite (regAddr address 0) value s with
  | .error e => .fault e
  | .ok s1 => send 0x06#8 (beBytes address ++ beBytes value) s1

/-- WRITE_MULTIPLE (R97). -/
def execWriteMultiple (start count : Word16) (byteCount : Byte) (s : State) : Result :=
  if writeCountLegal count byteCount then
    match writeRegs start count.toNat 0 s with
    | .error e => .fault e
    | .ok s1 => send 0x10#8 (beBytes start ++ beBytes count) s1
  else sendException 0x10#8 .illegalDataValue s

/-- ILLEGAL (R98). -/
def execIllegal (fc : Byte) (s : State) : Result := sendException fc .illegalFunction s

/-- `DISPATCH(frame)` (R92). -/
def dispatchFrame (f : Frame) (s : State) : Result :=
  if f.fc = 0x03#8 then execReadHolding f.first f.second s
  else if f.fc = 0x04#8 then execReadInput f.first f.second s
  else if f.fc = 0x06#8 then execWriteSingle f.first f.second s
  else if f.fc = 0x10#8 then execWriteMultiple f.first f.second f.crcLo s
  else execIllegal f.fc s

end Sys2Proof.Machine
end

