-- ==== Sys2Proof/Machine/Assembler.lean ====
section
/-! DEFINITION. The frame assembler, the validator and DELIVER (spec/41_frame_assembler.md). -/

namespace Sys2Proof.Machine

/-- Does the buffered frame carry the CRC of its bytes 0 to 5 (R83)? -/
def frameCrcOk (s : State) : Bool := crc16 (bufFrame s).body == (bufFrame s).rxCrc

/-- `VALIDATE()` (R83): dispatch on a match; match or mismatch, return to IDLE (R84). -/
def validate (s : State) : Result :=
  if frameCrcOk s then andThen (dispatchFrame (bufFrame s) (s.setAsm .processing)) fun t => .next (endDispatch t)
  else .next (endDispatch s)

/-- `IDLE_BYTE(b)` (R81). -/
def idleByte (b : Byte) (s : State) : State :=
  if b = s.ctx.devAddr then (s.putByte 0 b).setAsm .receiving else s

/-- `RECV_BYTE(b)` (R82). -/
def recvByte (b : Byte) (s : State) : Result :=
  if s.ctx.len < s.ctx.bufCap then
    if s.ctx.len + 1 = Config.frameLen then validate (s.putByte s.ctx.len b) else .next (s.putByte s.ctx.len b)
  else .next s.toIdle

/-- `CATCHALL(b)` (R86). -/
def catchAll (s : State) : State := s.toIdle

/-- `FEED_BYTE(b)` (R79): the accumulator first (R80), then the step of the state. -/
def feedByte (b : Byte) (s : State) : Result :=
  let s1 := s.setCrc (crc16Update s.ctx.crc b)
  match s.ctx.asm with
  | .idle => .next (idleByte b s1)
  | .receiving => recvByte b s1
  | .processing => .fault (raiseFault .reentrant s1)
  | .illegal => .next (catchAll s1)

/-- One byte of a chunk: fed to an open context, dropped by a closed one (R78). -/
def chunkByte (b : Byte) (s : State) : Result := if s.ctx.isOpen then feedByte b s else .next s

/-- The end of a DELIVER: `RxRearm(); busy <- 0` (R78). -/
def endDeliver (s : State) : Result :=
  match rxRearm s with
  | .error e => .fault e
  | .ok t => .next (t.setBusy false)

/-- The bytes of a chunk, in order, each to completion before the next (R50, R78). -/
def feedChunk : List Byte → State → Result
  | [], s => .next s
  | b :: bytes, s => andThen (chunkByte b (s.setRest bytes)) (feedChunk bytes)

/-- DELIVER (R78). -/
def execDeliver (now : Millis) (bytes : List Byte) (s : State) : Result :=
  unlessBusy s fun s =>
    if bytes.isEmpty then .next s
    else andThen (feedChunk bytes ((s.setBusy true).touch now)) endDeliver

/-- The rest of a DELIVER after one of its frames has been dispatched: the return to IDLE (R84), the chunk's bytes not fed yet, the end (log 2). -/
def resumeDeliver (s : State) : Result := andThen (feedChunk s.rest (endDispatch s)) endDeliver

end Sys2Proof.Machine
end

