-- ==== Sys2Proof/Machine/Lifecycle.lean ====
section
/-! DEFINITION. OPEN, CLOSE and the reserved selectors (spec/70_reset_and_hazards.md rules R145, R146; spec/30_encoding.md rule R70). -/

namespace Sys2Proof.Machine

/-- The context OPEN configures: the buffer is not cleared (R145). -/
def configured (c : Ctx) (addr : Byte) (cap : Nat) : Ctx :=
  { c with devAddr := addr, bufCap := cap, asm := .idle, len := 0, crc := Config.crcSeed, isOpen := true }

/-- OPEN (R145); its status is an output (R131). -/
def execOpen (addr : Byte) (cap : Nat) (s : State) : Result :=
  unlessBusy s fun s =>
    if cap < Config.frameLen then refuse .badCap s
    else if s.ctx.isOpen then .next (s.emit (.openStatus .failNoSlot))
    else .next ({ s with ctx := configured s.ctx addr cap }.emit (.openStatus .ok))

/-- CLOSE (R146). -/
def execClose (s : State) : Result :=
  unlessBusy s fun s => .next { s with ctx := { s.ctx with isOpen := false } }

/-- RESERVED_HOSTOP (R70): refused also while `busy = 1`. R29 and R148 say that any operation then raises REENTRANT, R70 refuses without a check, and
the list of R128 leaves R70 out: which of the two it is, is the model's choice (DESIGN CHOICE, log 27). -/
def execReservedHostop (s : State) : Result := refuse .reservedOp s

end Sys2Proof.Machine
end

