-- ==== Sys2Proof/Machine/Supervisor.lean ====
section
/-! DEFINITION. The recovery supervisor: TICK, MARK_ACTIVITY, MARK_ERROR (spec/44_supervisor.md). -/

namespace Sys2Proof.Machine

/-- Replace the recovery state. -/
def State.setSup (s : State) (u : Sup) : State := { s with sup := u }

/-- Policy step 1 (R111): the window. -/
def windowStep (now : Millis) (u : Sup) : Sup :=
  if windowOver now u then { u with errCnt := 0#32, winStart := now } else u

/-- The recovery state after the policy step 2, 3 or 4 that fires, at most one (R112 to R115); `none` when none fires. -/
def policyStep (now : Millis) (u : Sup) : Option Sup :=
  if thresholdReached u then some { u with errCnt := 0#32, winStart := now, lastForced := now }
  else if forcedIntervalOver now u then some { u with lastForced := now }
  else if inactive now u then some { u with lastAct := now, lastForced := now }
  else none

/-- TICK (R110). -/
def execTick (now : Millis) (s : State) : Result :=
  unlessBusy s fun s =>
    let s1 := (s.setBusy true).setSup (windowStep now s.sup)
    match policyStep now s1.sup with
    | none => .next (s1.setBusy false)
    | some u =>
      match forceReset s1 with
      | .error e => .fault e
      | .ok t => .next ((t.setSup u).setBusy false)

/-- MARK_ACTIVITY (R121). -/
def execMarkActivity (now : Millis) (s : State) : Result := unlessBusy s fun s => .next (s.touch now)

/-- The error counter after one more error, saturating (R122). -/
def countError (n : Millis) : Millis := if n.toNat < Config.errCntMax then n + 1#32 else n

/-- MARK_ERROR (R122). -/
def execMarkError (s : State) : Result :=
  unlessBusy s fun s => .next (s.setSup { s.sup with errCnt := countError s.sup.errCnt })

end Sys2Proof.Machine
end

