-- ==== Sys2Proof/Machine/Dispatch.lean ====
section
/-! DEFINITION. One arm per instruction. -/

namespace Sys2Proof.Machine

def exec (i : Instr) (s : State) : Host.Outcome State Fault Refusal :=
  match i with
  -- requests (spec/42_dispatch.md)
  | .readHolding _ start count _ _ => Sys2Proof.Machine.execReadHolding start count s
  | .readInput _ start count _ _ => Sys2Proof.Machine.execReadInput start count s
  | .writeSingle _ address value _ _ => Sys2Proof.Machine.execWriteSingle address value s
  | .writeMultiple _ start count crcLo _ => Sys2Proof.Machine.execWriteMultiple start count crcLo s
  | .illegal _ fc _ _ _ _ => Sys2Proof.Machine.execIllegal fc s
  -- host operations
  | .openContext addr cap => Sys2Proof.Machine.execOpen addr cap s
  | .closeContext => Sys2Proof.Machine.execClose s
  | .deliver now bytes => Sys2Proof.Machine.execDeliver now bytes s
  | .markActivity now => Sys2Proof.Machine.execMarkActivity now s
  | .markError => Sys2Proof.Machine.execMarkError s
  | .tick now => Sys2Proof.Machine.execTick now s
  | .reservedHostop _ _ => Sys2Proof.Machine.execReservedHostop s

end Sys2Proof.Machine
end

