-- ==== Sys2Proof/WellFormed.lean ====
section
/-! DEFINITION. Which terms of `Instr` are instructions: the one bound the encodings put on an operand (spec/30_encoding.md rule R61). -/

namespace Sys2Proof

/-- The function codes with a handler of their own (R61). -/
def handledCodes : List Byte := [0x03#8, 0x04#8, 0x06#8, 0x10#8]

/-- An ILLEGAL request's function code is none of the four handled codes (R61, R62); every other operand value of every other instruction has an encoding. -/
def wellFormed : Instr → Bool
  | .readHolding _ _ _ _ _ => true
  | .readInput _ _ _ _ _ => true
  | .writeSingle _ _ _ _ _ => true
  | .writeMultiple _ _ _ _ _ => true
  | .illegal _ fc _ _ _ _ => !handledCodes.contains fc
  | .openContext _ _ => true
  | .closeContext => true
  | .deliver _ _ => true
  | .markActivity _ => true
  | .markError => true
  | .tick _ => true
  | .reservedHostop _ _ => true

end Sys2Proof
end

