-- ==== Sys2Proof/Decode.lean ====
section
/-! DEFINITION. The decoder, total on any byte list and any host call and rejecting by name, and after it the encoder, both from the tables of
spec/30_encoding.md (rules R58 to R62, R69, R70) and spec/opcode_table.json. -/

namespace Sys2Proof

/-- Why the decoder refuses. -/
inductive DecodeError where
  /-- A request has exactly FRAME_LEN bytes (R57, R67); this one has `n`. -/
  | frameLength (n : Nat)
  /-- The arguments are not of the types R69 gives the selector `op`. -/
  | illTyped (op : BitVec 3)
  deriving DecidableEq, Repr

/-- The frame that exactly eight bytes make (R58). -/
def Frame.ofBytes : List Byte → Option Frame
  | [a, f, b2, b3, b4, b5, l, h] => some ⟨a, f, b2, b3, b4, b5, l, h⟩
  | _ => none

/-- The instruction of a frame: the function code, all eight bits of offset 1, selects it (R61). -/
def Frame.toInstr (f : Frame) : Instr :=
  if f.fc = 0x03#8 then .readHolding f.addr f.first f.second f.crcLo f.crcHi
  else if f.fc = 0x04#8 then .readInput f.addr f.first f.second f.crcLo f.crcHi
  else if f.fc = 0x06#8 then .writeSingle f.addr f.first f.second f.crcLo f.crcHi
  else if f.fc = 0x10#8 then .writeMultiple f.addr f.first f.second f.crcLo f.crcHi
  else .illegal f.addr f.fc f.first f.second f.crcLo f.crcHi

/-- Decode a request. The CRC is no part of decoding: it is the gate before it (R60 stage 3, `validate`). -/
def decodeFrame (bytes : List Byte) : Except DecodeError Instr :=
  match Frame.ofBytes bytes with
  | some f => .ok f.toInstr
  | none => .error (.frameLength bytes.length)

/-- Decode a host call by its selector (R69); 0b110 and 0b111 are the reserved row, with any arguments (R70). -/
def decodeHost (c : HostCall) : Except DecodeError Instr :=
  if c.op = 0b110#3 then .ok (.reservedHostop false c.args)
  else if c.op = 0b111#3 then .ok (.reservedHostop true c.args)
  else
    match c.args with
    | .config addr cap => if c.op = 0b000#3 then .ok (.openContext addr cap) else .error (.illTyped c.op)
    | .chunk now bytes => if c.op = 0b010#3 then .ok (.deliver now bytes) else .error (.illTyped c.op)
    | .time now =>
      if c.op = 0b011#3 then .ok (.markActivity now)
      else if c.op = 0b101#3 then .ok (.tick now)
      else .error (.illTyped c.op)
    | .noArgs =>
      if c.op = 0b001#3 then .ok .closeContext
      else if c.op = 0b100#3 then .ok .markError
      else .error (.illTyped c.op)

/-- Decode either class. -/
def decode : RawInstr → Except DecodeError Instr
  | .frame bytes => decodeFrame bytes
  | .host call => decodeHost call

/-- The bytes of a request with function code `fc` (R58). -/
def encodeRequest (addr fc : Byte) (p q : Word16) (crcLo crcHi : Byte) : RawInstr :=
  .frame ([addr, fc] ++ beBytes p ++ beBytes q ++ [crcLo, crcHi])

/-- The encoded form of an instruction (R58, R61, R69, R70). -/
def encode : Instr → RawInstr
  | .readHolding a p q l h => encodeRequest a 0x03#8 p q l h
  | .readInput a p q l h => encodeRequest a 0x04#8 p q l h
  | .writeSingle a p q l h => encodeRequest a 0x06#8 p q l h
  | .writeMultiple a p q l h => encodeRequest a 0x10#8 p q l h
  | .illegal a fc p q l h => encodeRequest a fc p q l h
  | .openContext addr cap => .host ⟨0b000#3, .config addr cap⟩
  | .closeContext => .host ⟨0b001#3, .noArgs⟩
  | .deliver now bytes => .host ⟨0b010#3, .chunk now bytes⟩
  | .markActivity now => .host ⟨0b011#3, .time now⟩
  | .markError => .host ⟨0b100#3, .noArgs⟩
  | .tick now => .host ⟨0b101#3, .time now⟩
  | .reservedHostop x args => .host ⟨if x then 0b111#3 else 0b110#3, args⟩

/-- Fold bytes into the number whose most significant byte is the first (the table's `byte 0 first, each byte MSB first`). -/
def bytesToNat : List Byte → Nat
  | [] => 0
  | b :: bs => b.toNat * 256 ^ bs.length + bytesToNat bs

/-- The bits of an instruction as spec/opcode_table.json numbers them: a request is one 64-bit word, byte 0 at bits 63:56, and a host
operation is its selector at bits 2:0 (R58, R69; log 4). -/
def encodeWord (i : Instr) : Nat :=
  match encode i with
  | .frame bytes => bytesToNat bytes
  | .host call => call.op.toNat

/-- The eight bytes of a 64-bit word, most significant first (log 4). -/
def bytesOfWord (w : Nat) : List Byte :=
  [BitVec.ofNat 8 (w / 2 ^ 56), BitVec.ofNat 8 (w / 2 ^ 48), BitVec.ofNat 8 (w / 2 ^ 40), BitVec.ofNat 8 (w / 2 ^ 32),
   BitVec.ofNat 8 (w / 2 ^ 24), BitVec.ofNat 8 (w / 2 ^ 16), BitVec.ofNat 8 (w / 2 ^ 8), BitVec.ofNat 8 w]

/-- The host call whose selector is the table's three bits and whose arguments are all zero (log 4). -/
def callOfWord (w : Nat) : HostCall :=
  match w % 8 with
  | 0 => ⟨0b000#3, .config 0 0⟩
  | 2 => ⟨0b010#3, .chunk 0 []⟩
  | 3 => ⟨0b011#3, .time 0⟩
  | 5 => ⟨0b101#3, .time 0⟩
  | op => ⟨BitVec.ofNat 3 op, .noArgs⟩

/-- The instruction of a word of spec/opcode_table.json: 64 bits are a request, three bits (one byte whose upper bits are zero) are a host
operation's selector, with arguments of zeros (log 4). -/
def decodeTableWord (nbits w : Nat) : Option Instr :=
  if nbits = 64 ∧ w < 2 ^ 64 then (decode (.frame (bytesOfWord w))).toOption
  else if nbits ≤ 8 ∧ w < 8 then (decode (.host (callOfWord w))).toOption
  else none

/-- The bits a row of spec/opcode_table.json fixes in an instruction's word, as (high bit, low bit, value); the ILLEGAL row fixes none. -/
def fixedBits : Instr → List (Nat × Nat × Nat)
  | .readHolding _ _ _ _ _ => [(55, 48, 0x03)]
  | .readInput _ _ _ _ _ => [(55, 48, 0x04)]
  | .writeSingle _ _ _ _ _ => [(55, 48, 0x06)]
  | .writeMultiple _ _ _ _ _ => [(55, 48, 0x10)]
  | .illegal _ _ _ _ _ _ => []
  | .openContext _ _ => [(2, 0, 0b000)]
  | .closeContext => [(2, 0, 0b001)]
  | .deliver _ _ => [(2, 0, 0b010)]
  | .markActivity _ => [(2, 0, 0b011)]
  | .markError => [(2, 0, 0b100)]
  | .tick _ => [(2, 0, 0b101)]
  | .reservedHostop _ _ => [(2, 1, 0b11)]

/-- Does a word hold a row's fixed bits? -/
def holdsBits (w : Nat) (row : List (Nat × Nat × Nat)) : Bool :=
  row.all fun (hi, lo, v) => w / 2 ^ lo % 2 ^ (hi + 1 - lo) == v

end Sys2Proof
end

