-- ==== Sys2Proof/Machine/Fetch.lean ====
section
/-! DEFINITION. What the next step performs: the frame being dispatched, or the next host operation the environment has issued (log 1, log 2); and
placing an instruction there. -/

namespace Sys2Proof.Machine

/-- What a step finds. -/
inductive Fetched where
  /-- The step's outcome is decided without an instruction. -/
  | settled (outcome : Result)
  /-- A request to dispatch, inside a DELIVER. -/
  | request (i : Instr) (s : State)
  /-- A host operation to perform, taken from the inbox. -/
  | hostOp (i : Instr) (s : State)

/-- A DELIVER is in progress and holds a validated frame: `busy = 1` and PROCESSING (R18; log 2). -/
def frameReady (s : State) : Bool := s.busy && decide (s.ctx.asm = .processing)

/-- The next host operation of the inbox; with none the block holds its state (R143; log 21). -/
def fetchHost (s : State) : Fetched :=
  match s.inbox with
  | [] => .settled (.next s)
  | call :: later =>
    match decodeHost call with
    | .ok i => .hostOp i { s with inbox := later }
    | .error _ => .settled (refuse (.illTyped call.op) { s with inbox := later })

/-- What the next step performs; a state with a fault or a refusal set has no further step (R28, R128, R129). -/
def fetch (s : State) : Fetched :=
  match s.fault, s.refusal with
  | some r, _ => .settled (.fault (faultOf r s))
  | none, some r => .settled (.refused (refusalOf r s))
  | none, none => if frameReady s then .request (bufFrame s).toInstr s else fetchHost s

/-- The buffer after the bytes of a list have been written from index `i` on. -/
def writeBytes (m : Memory) : (i : Nat) → List Byte → Memory
  | _, [] => m
  | i, b :: bytes => writeBytes (m.write i b) (i + 1) bytes

/-- `s` with a request's bytes as the validated frame of the open, addressed context, as the last bytes of their chunk (log 2). -/
def placeRequest (s : State) (bytes : List Byte) : State :=
  { s with
    ctx :=
      { s.ctx with
        isOpen := true
        devAddr := bytes.headD 0#8
        asm := .processing
        len := Config.frameLen
        buf := writeBytes s.ctx.buf 0 bytes }
    fault := none
    refusal := none
    busy := true
    rest := [] }

/-- `s` with a host call as the next operation and none in progress (log 1). -/
def placeCall (s : State) (call : HostCall) : State :=
  { s with fault := none, refusal := none, busy := false, inbox := call :: s.inbox }

/-- `s` with the instruction of a word of spec/opcode_table.json placed where `fetch` finds it (log 4). -/
def placeWord (s : State) (nbits w : Nat) : State :=
  if nbits = 64 then placeRequest s (bytesOfWord w) else placeCall s (callOfWord w)

end Sys2Proof.Machine
end

