-- ==== Sys2Proof/Machine/Step.lean ====
section
/-! DEFINITION. One step: one host operation, or the rest of a DELIVER whose frame is being dispatched (log 1, log 2). -/

namespace Sys2Proof.Machine

/-- One step of the machine. -/
def step (s : State) : Host.Outcome State Fault Refusal :=
  match fetch s with
  | .settled outcome => outcome
  | .request i t => andThen (exec i t) resumeDeliver
  | .hostOp i t => exec i t

/-- `s` with the instruction of a table word stored where `step` fetches its next instruction (log 4). -/
def State.withFetchWord (s : State) (nbits w : Nat) : State := placeWord s nbits w

end Sys2Proof.Machine
end

