-- ==== Sys2Proof/Safety.lean ====
section
/-! DEFINITION. The terms the statements use: a quiet environment (spec/70_reset_and_hazards.md rule R149), what a request leaves alone, the port events
of a request, and the invariant of the block (spec/10_state.md rules R32, R33). -/

namespace Sys2Proof.Machine

/-- The partner answers. -/
def PartnerReply.isAnswer {α : Type} : PartnerReply α → Bool
  | .answers _ => true
  | .calls => false

/-- No partner of a port starts a host operation while it answers (R149). -/
def Env.quiet (e : Env) : Bool :=
  e.readReplies.all (·.isAnswer) && e.writeReplies.all (·.isAnswer) && e.sentReplies.all (·.isAnswer) && e.rearmReplies.all (·.isAnswer)

/-- The block's own state is the same in `s` and `t`: only the ports' partners, the draw counter and the trace may differ. -/
structure BlockUnchanged (s t : State) : Prop where
  /-- The device context. -/
  ctx : t.ctx = s.ctx
  /-- The recovery state. -/
  sup : t.sup = s.sup
  /-- The fault mark. -/
  fault : t.fault = s.fault
  /-- The refusal mark. -/
  refusal : t.refusal = s.refusal
  /-- The busy mark. -/
  busy : t.busy = s.busy
  /-- The bytes of the chunk not fed yet. -/
  rest : t.rest = s.rest
  /-- The operations not performed yet. -/
  inbox : t.inbox = s.inbox

/-- The RegRead events of a read that received the values `vs`, registers from index `i` on. -/
def readEvents (start : Word16) : (i : Nat) → List Word16 → List PortEvent
  | _, [] => []
  | i, v :: vs => .regRead (regAddr start i) v :: readEvents start (i + 1) vs

/-- The RegWrite events of a write of (value, store's answer) pairs, registers from index `i` on. -/
def writeEvents (start : Word16) : (i : Nat) → List (Word16 × Word16) → List PortEvent
  | _, [] => []
  | i, (v, stored) :: vs => .regWrite (regAddr start i) v stored :: writeEvents start (i + 1) vs

/-- Is the event a RegRead? -/
def PortEvent.isRegRead : PortEvent → Bool
  | .regRead _ _ => true
  | _ => false

/-- Is the event a RegWrite? -/
def PortEvent.isRegWrite : PortEvent → Bool
  | .regWrite _ _ _ => true
  | _ => false

/-- Is the event a Transmit? -/
def PortEvent.isTransmit : PortEvent → Bool
  | .transmit _ _ => true
  | _ => false

/-- Is the instruction a request, one of the five function rows? -/
def isRequest : Instr → Bool
  | .readHolding _ _ _ _ _ => true
  | .readInput _ _ _ _ _ => true
  | .writeSingle _ _ _ _ _ => true
  | .writeMultiple _ _ _ _ _ => true
  | .illegal _ _ _ _ _ _ => true
  | .openContext _ _ => false
  | .closeContext => false
  | .deliver _ _ => false
  | .markActivity _ => false
  | .markError => false
  | .tick _ => false
  | .reservedHostop _ _ => false

/-- The register store lists exactly the reference store's addresses, `REG_BASE .. REG_BASE + REG_COUNT - 1` (R38). -/
def isReferenceStore (store : List (Nat × Word16)) : Bool :=
  store.map Prod.fst == (List.range Config.regCount).map (Config.regBase + ·)

/-- Every register of a request for `count` registers from `start` on is known. -/
def registersKnown (s : State) (start : Word16) (count : Nat) : Bool :=
  (List.range count).all fun i => (knownRegister s.env.store (regAddr start i)).isSome

/-- Every byte the assembler holds has been written. -/
def bytesHeld (s : State) : Bool := (List.range s.ctx.len).all fun i => (s.ctx.buf.read? i).isSome

/-- What holds of the assembler between two bytes (R32): IDLE with length 0, or RECEIVING with 1 to FRAME_LEN - 1 bytes of which the first is the
device address. -/
def betweenBytes (s : State) : Bool :=
  (decide (s.ctx.asm = .idle) && s.ctx.len == 0) ||
    (decide (s.ctx.asm = .receiving) && decide (1 ≤ s.ctx.len) && decide (s.ctx.len < Config.frameLen) &&
      s.ctx.buf.read? 0 == some s.ctx.devAddr)

/-- The invariant of the block: R32, with a DELIVER whose frame is being dispatched as the one state in which an operation is in progress (log 2);
R33; a capacity of at least FRAME_LEN (R17); and the canonical form of the frame buffer and of the known registers. -/
structure Inv (s : State) : Prop where
  /-- `ctx.buf_cap >= FRAME_LEN` (R17). -/
  capacity : Config.frameLen ≤ s.ctx.bufCap
  /-- The frame buffer is in canonical form. -/
  bufWf : Memory.wf s.ctx.buf = true
  /-- Nothing is written from index FRAME_LEN on (R33). -/
  bufLow : s.ctx.buf.all (fun c => decide (c.1 < Config.frameLen)) = true
  /-- The known registers are in canonical form. -/
  storeWf : cellsWf s.env.store = true
  /-- The bytes held have been written. -/
  held : bytesHeld s = true
  /-- With no operation in progress the assembler is between two bytes (R32). -/
  idleOrReceiving : s.busy = false → betweenBytes s = true
  /-- With no operation in progress no chunk is. -/
  restEmpty : s.busy = false → s.rest = []
  /-- An operation in progress is a DELIVER that dispatches a whole frame. -/
  processing : s.busy = true → s.ctx.asm = .processing ∧ s.ctx.len = Config.frameLen

/-- What a forced reset does to `s`, the recovery state apart (R117): the assembler IDLE, empty and re-seeded, one RxRearm, nothing else. -/
structure ForcedReset (s t : State) : Prop where
  /-- The assembler is reset; address, capacity, open flag and buffer stay. -/
  ctx : t.ctx = { s.ctx with asm := .idle, len := 0, crc := 0xFFFF#16 }
  /-- One RxRearm. -/
  trace : t.trace = s.trace ++ [.rxRearm]
  /-- The partners, but for the one reaction used. -/
  env : t.env = { s.env with rearmReplies := s.env.rearmReplies.tail }
  /-- The fault mark. -/
  fault : t.fault = s.fault
  /-- The refusal mark. -/
  refusal : t.refusal = s.refusal
  /-- The busy mark. -/
  busy : t.busy = s.busy
  /-- The chunk. -/
  rest : t.rest = s.rest
  /-- The draw counter. -/
  draws : t.draws = s.draws
  /-- The inbox. -/
  inbox : t.inbox = s.inbox

/-- What a DELIVER that dispatches no frame does beside the assembler (R78): activity, one RxRearm, nothing else. -/
structure DeliveredQuietly (now : Millis) (s t : State) : Prop where
  /-- Only the activity timestamp of the recovery state. -/
  sup : t.sup = { s.sup with lastAct := now }
  /-- One RxRearm. -/
  trace : t.trace = s.trace ++ [.rxRearm]
  /-- The partners, but for the one reaction used. -/
  env : t.env = { s.env with rearmReplies := s.env.rearmReplies.tail }
  /-- The fault mark. -/
  fault : t.fault = s.fault
  /-- The refusal mark. -/
  refusal : t.refusal = s.refusal
  /-- No operation is in progress after it. -/
  busy : t.busy = false
  /-- No byte of the chunk is left. -/
  rest : t.rest = []
  /-- The draw counter. -/
  draws : t.draws = s.draws
  /-- The inbox. -/
  inbox : t.inbox = s.inbox

/-- The one write to the frame buffer is byte `b` at index `i`. -/
structure StoresByte (s t : State) (i : Nat) (b : Byte) : Prop where
  /-- The byte written. -/
  written : t.ctx.buf.read? i = some b
  /-- Every other index reads as before. -/
  others : ∀ a, a ≠ i → t.ctx.buf.read? a = s.ctx.buf.read? a

/-- A request is answered by the one reply of `body` with its CRC appended, after the events `events`, and leaves the block alone, every
byte of the frame buffer with it. -/
def RepliesAfter (events : List PortEvent) (body : List Byte) (s : State) (r : Result) : Prop :=
  ∃ t n, r = .next t ∧ n ≤ body.length + 2 ∧
    t.trace = s.trace ++ events ++ [.transmit (body ++ [lo8 (crc16 body), hi8 (crc16 body)]) n] ∧
    BlockUnchanged s t ∧ t.env.rearmReplies = s.env.rearmReplies ∧
    (∀ a, t.ctx.buf.read? a = s.ctx.buf.read? a)

/-- An operation ends in REENTRANT because the partner asked by `request` called back, after the events `events` (R128, R149; log 15): the mark is set,
and the device context, every byte of the frame buffer with it, and the recovery state are as they were. -/
def CalledBackAfter (events : List PortEvent) (request : PortRequest) (s : State) (r : Result) : Prop :=
  ∃ final, r = .fault (.reentrant final) ∧ final.fault = some .reentrant ∧
    final.trace = s.trace ++ events ++ [.unanswered request] ∧ final.ctx = s.ctx ∧ final.sup = s.sup

/-- What a read request answered with function code `fc` does in a quiet environment (R94): with a legal count, that many RegReads in ascending
order and then the reply that carries the values answered; with any other count, the exception reply 3 alone. -/
def ReadAnswered (fc : Byte) (start count : Word16) (s : State) (r : Result) : Prop :=
  (1 ≤ count.toNat ∧ count.toNat ≤ 125 →
    ∃ vs : List Word16, vs.length = count.toNat ∧
      RepliesAfter (readEvents start 0 vs) ([s.ctx.devAddr, fc, BitVec.ofNat 8 (2 * count.toNat)] ++ vs.flatMap beBytes) s r) ∧
  (count.toNat = 0 ∨ 125 < count.toNat → RepliesAfter [] [s.ctx.devAddr, fc ||| 0x80#8, 3#8] s r)

end Sys2Proof.Machine
end

