-- ==== Sys2Proof/Certificates/Slice0/Obligations.lean ====
section
/-! DEFINITION. The statements for the provers, each a property of the model that a rule of spec/ gives or that follows from one. -/

open Sys2Proof Sys2Proof.Machine

/-! ### The CRC engine (spec/40_crc.md) -/

/-- R74: folding `crc16_update` over a buffer from the seed is `crc16` of the buffer, and appending a byte is one more update. -/
def Obligations.CrcIsTheFoldOfItsUpdate : Prop :=
  ∀ (bytes : List Byte) (b : Byte),
    crc16 bytes = bytes.foldl crc16Update 0xFFFF#16 ∧ crc16 (bytes ++ [b]) = crc16Update (crc16 bytes) b

/-- 40_crc.md, the sentence "So a frame whose last two bytes are its correct low-first CRC has CRC 0 over all its bytes" (an inference the spec marks
as its own). -/
def Obligations.CrcOfAFrameWithItsCrcIsZero : Prop :=
  ∀ bytes : List Byte, crc16 (bytes ++ [lo8 (crc16 bytes), hi8 (crc16 bytes)]) = 0#16

/-- 40_crc.md's bit loop (from general knowledge, 93 G1): the update depends on `c xor zext_16(b)` only, and it sends the corner cases where the spec says. -/
def Obligations.CrcUpdateCornerCases : Prop :=
  (∀ (c : Word16) (b : Byte), crc16Update c b = crc16Update (c ^^^ b.setWidth 16) 0#8) ∧
  crc16Update 0x0000#16 0x80#8 = 0xA001#16 ∧ crc16Update 0x0000#16 0x01#8 = 0xC0C1#16 ∧
  crc16Update 0xFFFF#16 0xFF#8 = 0x00FF#16 ∧ crc16Update 0x1234#16 0x56#8 = 0xE993#16 ∧
  crc16 [0x31#8, 0x32#8, 0x33#8, 0x34#8, 0x35#8, 0x36#8, 0x37#8, 0x38#8, 0x39#8] = 0x4B37#16

/-! ### Encoding (spec/30_encoding.md) -/

/-- 20_memory.md section 2: a field is big-endian on the wire and the CRC is little-endian, and a value written is the value read back. -/
def Obligations.FieldsAreBigEndianAndTheCrcLittleEndian : Prop :=
  ∀ (a b : Byte) (v : Word16),
    (be16 a b).toNat = 256 * a.toNat + b.toNat ∧ (le16 a b).toNat = a.toNat + 256 * b.toNat ∧
    beBytes v = [hi8 v, lo8 v] ∧ leBytes v = [lo8 v, hi8 v] ∧
    be16 (hi8 v) (lo8 v) = v ∧ le16 (lo8 v) (hi8 v) = v

/-- R61: the whole function-code byte selects the handler; DISPATCH of a frame runs the meaning of the instruction its bytes decode to. -/
def Obligations.FunctionCodeSelectsTheHandler : Prop :=
  ∀ (f : Frame) (s : State),
    (f.fc = 0x03#8 → decodeFrame f.bytes = .ok (.readHolding f.addr (be16 f.p0 f.p1) (be16 f.p2 f.p3) f.crcLo f.crcHi)) ∧
    (f.fc = 0x04#8 → decodeFrame f.bytes = .ok (.readInput f.addr (be16 f.p0 f.p1) (be16 f.p2 f.p3) f.crcLo f.crcHi)) ∧
    (f.fc = 0x06#8 → decodeFrame f.bytes = .ok (.writeSingle f.addr (be16 f.p0 f.p1) (be16 f.p2 f.p3) f.crcLo f.crcHi)) ∧
    (f.fc = 0x10#8 → decodeFrame f.bytes = .ok (.writeMultiple f.addr (be16 f.p0 f.p1) (be16 f.p2 f.p3) f.crcLo f.crcHi)) ∧
    (f.fc ≠ 0x03#8 → f.fc ≠ 0x04#8 → f.fc ≠ 0x06#8 → f.fc ≠ 0x10#8 →
      decodeFrame f.bytes = .ok (.illegal f.addr f.fc (be16 f.p0 f.p1) (be16 f.p2 f.p3) f.crcLo f.crcHi)) ∧
    (∀ i, decodeFrame f.bytes = .ok i → dispatchFrame f s = exec i s)

/-- Decoding the encoding of any well-formed instruction gives it back. -/
def Obligations.DecodeUndoesEncode : Prop :=
  ∀ i : Instr, wellFormed i = true → decode (encode i) = .ok i

/-- Whatever decodes is well-formed and encodes to the very bytes or call it was read from: every encoded form has one meaning. -/
def Obligations.EncodeUndoesDecode : Prop :=
  ∀ (w : RawInstr) (i : Instr), decode w = .ok i → wellFormed i = true ∧ encode i = w

/-- A byte list decodes as a request exactly when it has 8 bytes, and a host call with a selector that is not reserved decodes exactly when its arguments
have the types of its selector (30_encoding.md section 5); a reserved selector takes any. The arguments' form and the rejection of an ill-typed call by
name are the model's (log 3). -/
def Obligations.DecodeRejectsByName : Prop :=
  (∀ bytes : List Byte, bytes.length ≠ 8 → decode (.frame bytes) = .error (.frameLength bytes.length)) ∧
  (∀ bytes : List Byte, bytes.length = 8 → ∃ i, decode (.frame bytes) = .ok i) ∧
  (∀ args : HostArgs, decode (.host ⟨0b110#3, args⟩) = .ok (.reservedHostop false args)) ∧
  (∀ args : HostArgs, decode (.host ⟨0b111#3, args⟩) = .ok (.reservedHostop true args)) ∧
  (∀ (op : BitVec 3) (addr : Byte) (cap : Nat), op.toNat < 6 →
    decode (.host ⟨op, .config addr cap⟩) = if op = 0b000#3 then .ok (.openContext addr cap) else .error (.illTyped op)) ∧
  (∀ op : BitVec 3, op.toNat < 6 →
    decode (.host ⟨op, .noArgs⟩) =
      if op = 0b001#3 then .ok .closeContext else if op = 0b100#3 then .ok .markError else .error (.illTyped op)) ∧
  (∀ (op : BitVec 3) (now : Millis) (bytes : List Byte), op.toNat < 6 →
    decode (.host ⟨op, .chunk now bytes⟩) = if op = 0b010#3 then .ok (.deliver now bytes) else .error (.illTyped op)) ∧
  (∀ (op : BitVec 3) (now : Millis), op.toNat < 6 →
    decode (.host ⟨op, .time now⟩) =
      if op = 0b011#3 then .ok (.markActivity now) else if op = 0b101#3 then .ok (.tick now) else .error (.illTyped op))

/-- Words written out from spec/opcode_table.json and spec/95_test_vectors.md decode to the instructions they stand for. That a host operation's word is
one byte with arguments of zeros (log 4), and a reserved selector's has no arguments (log 3), is the model's. -/
def Obligations.SpecWordsDecode : Prop :=
  decodeTableWord 64 0x01030000000585C9 = some (.readHolding 0x01#8 0#16 5#16 0x85#8 0xC9#8) ∧
  decodeTableWord 64 0x01040000000131CA = some (.readInput 0x01#8 0#16 1#16 0x31#8 0xCA#8) ∧
  decodeTableWord 64 0x0106000504D21B56 = some (.writeSingle 0x01#8 5#16 1234#16 0x1B#8 0x56#8) ∧
  decodeTableWord 64 0x011008100001026C = some (.writeMultiple 0x01#8 0x0810#16 1#16 0x02#8 0x6C#8) ∧
  decodeTableWord 64 0x01050000FF008C3A = some (.illegal 0x01#8 0x05#8 0#16 0xFF00#16 0x8C#8 0x3A#8) ∧
  decodeTableWord 8 0b001 = some .closeContext ∧ decodeTableWord 8 0b100 = some .markError ∧
  decodeTableWord 8 0b111 = some (.reservedHostop true .noArgs)

/-! ### Requests (spec/42_dispatch.md, spec/43_response.md) -/

/-- R94: READ_HOLDING, its encoding, its reply for every count, and its frame. -/
def Obligations.ReadHoldingAnswersItsRegisters : Prop :=
  ∀ (a : Byte) (start count : Word16) (l h : Byte) (s : State),
    encode (.readHolding a start count l h) = .frame [a, 0x03#8, hi8 start, lo8 start, hi8 count, lo8 count, l, h] ∧
    (s.env.quiet = true → ReadAnswered 0x03#8 start count s (exec (.readHolding a start count l h) s))

/-- 42_dispatch.md section 2: READ_INPUT is READ_HOLDING but for its function byte, which the spec's decision D12 makes 0x04. -/
def Obligations.ReadInputAnswersItsRegisters : Prop :=
  ∀ (a : Byte) (start count : Word16) (l h : Byte) (s : State),
    encode (.readInput a start count l h) = .frame [a, 0x04#8, hi8 start, lo8 start, hi8 count, lo8 count, l, h] ∧
    (s.env.quiet = true → ReadAnswered 0x04#8 start count s (exec (.readInput a start count l h) s))

/-- 20_memory.md section 1 and decision D28: a read reply, of either read request, carries the store's answers, in the order they are given, each taken once
(log 11). -/
def Obligations.ReadReplyCarriesTheAnswersInOrder : Prop :=
  ∀ (a : Byte) (start count : Word16) (l h : Byte) (s : State) (vs : List Word16) (later : List (PartnerReply Word16)),
    s.env.quiet = true → vs.length = count.toNat → 1 ≤ count.toNat → count.toNat ≤ 125 →
    s.env.readReplies = vs.map .answers ++ later →
    RepliesAfter (readEvents start 0 vs) ([s.ctx.devAddr, 0x03#8, BitVec.ofNat 8 (2 * count.toNat)] ++ vs.flatMap beBytes) s
        (exec (.readHolding a start count l h) s) ∧
    RepliesAfter (readEvents start 0 vs) ([s.ctx.devAddr, 0x04#8, BitVec.ofNat 8 (2 * count.toNat)] ++ vs.flatMap beBytes) s
        (exec (.readInput a start count l h) s) ∧
    ∀ t, exec (.readHolding a start count l h) s = .next t ∨ exec (.readInput a start count l h) s = .next t →
      t.env.readReplies = later

/-- The model's store (log 13): a read of known registers, by either read request, answers their values and changes none of them. -/
def Obligations.ReadOfKnownRegistersAnswersThem : Prop :=
  ∀ (a : Byte) (start count : Word16) (l h : Byte) (s : State),
    s.env.quiet = true → 1 ≤ count.toNat → count.toNat ≤ 125 → s.env.readReplies = [] →
    registersKnown s start count.toNat = true →
    ∃ vs : List Word16, vs.length = count.toNat ∧
      (∀ i, i < count.toNat → cellGet s.env.store (regAddr start i).toNat = vs[i]?) ∧
      RepliesAfter (readEvents start 0 vs) ([s.ctx.devAddr, 0x03#8, BitVec.ofNat 8 (2 * count.toNat)] ++ vs.flatMap beBytes) s
        (exec (.readHolding a start count l h) s) ∧
      RepliesAfter (readEvents start 0 vs) ([s.ctx.devAddr, 0x04#8, BitVec.ofNat 8 (2 * count.toNat)] ++ vs.flatMap beBytes) s
        (exec (.readInput a start count l h) s) ∧
      ∀ t, exec (.readHolding a start count l h) s = .next t ∨ exec (.readInput a start count l h) s = .next t →
        t.env.store = s.env.store

/-- 42_dispatch.md section 3: WRITE_SINGLE writes the request's value once at 40001 + address and echoes the request, whatever the store answers
(decision D13). -/
def Obligations.WriteSingleWritesOnceAndEchoes : Prop :=
  ∀ (a : Byte) (address value : Word16) (l h : Byte) (s : State), s.env.quiet = true →
    ∃ stored, RepliesAfter [.regWrite (BitVec.ofNat 32 (40001 + address.toNat)) value stored]
      [s.ctx.devAddr, 0x06#8, hi8 address, lo8 address, hi8 value, lo8 value] s (exec (.writeSingle a address value l h) s) ∧
    ∀ t, exec (.writeSingle a address value l h) s = .next t → t.env.readReplies = s.env.readReplies

/-- 42_dispatch.md section 3, decisions D9 and D11: WRITE_MULTIPLE with legal operands and a buffer that holds its payload writes its registers in
ascending order, the first with the frame's CRC high byte as its high byte, and mirrors the request. -/
def Obligations.WriteMultipleWritesItsRegisters : Prop :=
  ∀ (a : Byte) (start count : Word16) (byteCount h : Byte) (s : State), s.env.quiet = true →
    1 ≤ count.toNat → count.toNat ≤ 123 → byteCount.toNat = 2 * count.toNat → 6 + 2 * count.toNat < s.ctx.bufCap →
    ∃ ws : List (Word16 × Word16), ws.length = count.toNat ∧ (ws.head?.map fun w => hi8 w.1) = some (bufByte s 7) ∧
      RepliesAfter (writeEvents start 0 ws) [s.ctx.devAddr, 0x10#8, hi8 start, lo8 start, hi8 count, lo8 count] s
        (exec (.writeMultiple a start count byteCount h) s)

/-- 42_dispatch.md section 3, decisions D8 and D9: a buffer too small for the payload faults at the first index outside it, the writes whose bytes lie
inside done, no reply sent. -/
def Obligations.WriteMultipleFaultsPastTheBuffer : Prop :=
  ∀ (a : Byte) (start count : Word16) (byteCount h : Byte) (s : State), s.env.quiet = true →
    1 ≤ count.toNat → count.toNat ≤ 123 → byteCount.toNat = 2 * count.toNat →
    8 ≤ s.ctx.bufCap → s.ctx.bufCap ≤ 6 + 2 * count.toNat →
    ∃ (final : State) (ws : List (Word16 × Word16)),
      exec (.writeMultiple a start count byteCount h) s = .fault (.bufOverread s.ctx.bufCap final) ∧
      ws.length = (s.ctx.bufCap - 7) / 2 ∧ final.trace = s.trace ++ writeEvents start 0 ws ∧
      final.fault = some (.bufOverread s.ctx.bufCap) ∧ final.ctx = s.ctx ∧ final.sup = s.sup

/-- 42_dispatch.md section 3: WRITE_MULTIPLE with an illegal count or byte count answers exception 3 and writes nothing. -/
def Obligations.WriteMultipleRejectsItsOperands : Prop :=
  ∀ (a : Byte) (start count : Word16) (byteCount h : Byte) (s : State), s.env.quiet = true →
    count.toNat = 0 ∨ 123 < count.toNat ∨ byteCount.toNat ≠ 2 * count.toNat →
    RepliesAfter [] [s.ctx.devAddr, 0x90#8, 3#8] s (exec (.writeMultiple a start count byteCount h) s)

/-- R98: every frame whose function code is none of the four decodes to ILLEGAL, which answers exception 1 and nothing else. -/
def Obligations.IllegalFunctionAnswersExceptionOne : Prop :=
  ∀ (a fc b2 b3 b4 b5 l h : Byte) (s : State), fc ≠ 0x03#8 → fc ≠ 0x04#8 → fc ≠ 0x06#8 → fc ≠ 0x10#8 →
    decodeFrame [a, fc, b2, b3, b4, b5, l, h] = .ok (.illegal a fc (be16 b2 b3) (be16 b4 b5) l h) ∧
    (s.env.quiet = true →
      RepliesAfter [] [s.ctx.devAddr, fc ||| 0x80#8, 1#8] s (exec (.illegal a fc (be16 b2 b3) (be16 b4 b5) l h) s))

/-- R66, R105: the exception reply is the device address, the function code with bit 7 set, the code and the CRC, 5 bytes; a function code with bit 7
set keeps its value. -/
def Obligations.ExceptionReplyIsFiveBytes : Prop :=
  ∀ (fc : Byte) (code : ExceptionCode) (s : State), s.env.quiet = true →
    RepliesAfter [] [s.ctx.devAddr, fc ||| 0x80#8, exceptionByte code] s (sendException fc code s) ∧
    ([s.ctx.devAddr, fc ||| 0x80#8, exceptionByte code] ++ leBytes (crc16 [s.ctx.devAddr, fc ||| 0x80#8, exceptionByte code])).length = 5 ∧
    (0x80 ≤ fc.toNat → fc ||| 0x80#8 = fc)

/-- 43_response.md: a request that completes transmits exactly one frame, last, of 5 to 255 bytes, with the device address first. That the CRC over all of
it is 0 follows by 40_crc.md's sentence on a frame with its own CRC (an inference the spec marks as its own), and rests on the bit loop (log 22, PRESUMED). -/
def Obligations.EveryRequestSendsOneValidReply : Prop :=
  ∀ (i : Instr) (s t : State), isRequest i = true → exec i s = .next t →
    ∃ (events : List PortEvent) (bytes : List Byte) (n : Nat),
      t.trace = s.trace ++ events ++ [.transmit bytes n] ∧ events.all (fun e => !e.isTransmit) = true ∧
      bytes.head? = some s.ctx.devAddr ∧ 5 ≤ bytes.length ∧ bytes.length ≤ 255 ∧ n ≤ bytes.length ∧ crc16 bytes = 0#16

/-- 42_dispatch.md section 1 (decisions D10, D11): a read uses the read port only, a write the write port only, any other request neither; at most 125
register transactions; and the block is left alone. -/
def Obligations.RequestsUseOnePortAndLeaveTheBlockAlone : Prop :=
  ∀ (i : Instr) (s t : State), isRequest i = true → exec i s = .next t →
    BlockUnchanged s t ∧
    ∃ events : List PortEvent, t.trace = s.trace ++ events ∧
      (events.filter fun e => e.isRegRead || e.isRegWrite).length ≤ 125 ∧
      match i with
      | .readHolding _ _ _ _ _ => events.all (fun e => !e.isRegWrite) = true
      | .readInput _ _ _ _ _ => events.all (fun e => !e.isRegWrite) = true
      | .writeSingle _ _ _ _ _ => events.all (fun e => !e.isRegRead) = true
      | .writeMultiple _ _ _ _ _ => events.all (fun e => !e.isRegRead) = true
      | _ => events.all (fun e => !e.isRegRead && !e.isRegWrite) = true

/-- 42_dispatch.md section 5: the reply to a valid WRITE_SINGLE frame is the request, byte for byte (an inference the spec marks as its own). -/
def Obligations.WriteSingleReplyIsTheRequest : Prop :=
  ∀ (f : Frame) (s : State), s.env.quiet = true → f.fc = 0x06#8 → f.addr = s.ctx.devAddr →
    crc16 [f.addr, f.fc, f.p0, f.p1, f.p2, f.p3] = le16 f.crcLo f.crcHi →
    ∃ t stored n, exec f.toInstr s = .next t ∧
      t.trace = s.trace ++ [.regWrite (BitVec.ofNat 32 (40001 + (be16 f.p0 f.p1).toNat)) (be16 f.p2 f.p3) stored, .transmit f.bytes n]

/-- 20_memory.md section 4, decision D10: a register's logical address is exact and never wraps. -/
def Obligations.RegisterAddressesNeverWrap : Prop :=
  ∀ (start : Word16) (i : Nat), i ≤ 124 →
    (regAddr start i).toNat = 40001 + start.toNat + i ∧ 40001 ≤ (regAddr start i).toNat ∧ (regAddr start i).toNat ≤ 105660

/-- The model's store (log 13): with no other writer, a value written to a known register by WRITE_SINGLE is read back by READ_HOLDING
(95_test_vectors.md program P2), and every other known register keeps its value. -/
def Obligations.WrittenRegisterIsReadBack : Prop :=
  ∀ (a : Byte) (address value : Word16) (l h : Byte) (s : State),
    s.env.quiet = true → s.env.readReplies = [] → s.env.writeReplies = [] → registersKnown s address 1 = true →
    ∃ t, exec (.writeSingle a address value l h) s = .next t ∧
      (∀ la, la ≠ (regAddr address 0).toNat → cellGet t.env.store la = cellGet s.env.store la) ∧
      RepliesAfter [.regRead (regAddr address 0) value] [s.ctx.devAddr, 0x03#8, 2#8, hi8 value, lo8 value] t
        (exec (.readHolding a address 1#16 l h) t)

/-- The model's store (log 13, its choice where 20_memory.md sections 1 and 3 leave a read's and an outside access's effect on the store open): a
reference store keeps its twenty addresses through requests that access its own registers only, and after a request that accesses an address outside
them nothing is known of the store. -/
def Obligations.ReferenceStoreKeepsItsAddresses : Prop :=
  ∀ (a : Byte) (p q : Word16) (l h : Byte) (s t : State),
    (exec (.readHolding a p q l h) s = .next t ∨ exec (.readInput a p q l h) s = .next t →
      (isReferenceStore s.env.store = true → p.toNat + q.toNat ≤ 20 ∨ q.toNat = 0 ∨ 125 < q.toNat →
        isReferenceStore t.env.store = true) ∧
      (20 < p.toNat + q.toNat → 1 ≤ q.toNat → q.toNat ≤ 125 → t.env.store = [])) ∧
    (exec (.writeSingle a p q l h) s = .next t →
      (isReferenceStore s.env.store = true → p.toNat < 20 → isReferenceStore t.env.store = true) ∧
      (20 ≤ p.toNat → t.env.store = [])) ∧
    (exec (.writeMultiple a p q l h) s = .next t →
      (isReferenceStore s.env.store = true →
        p.toNat + q.toNat ≤ 20 ∨ q.toNat = 0 ∨ 123 < q.toNat ∨ l.toNat ≠ 2 * q.toNat → isReferenceStore t.env.store = true) ∧
      (20 < p.toNat + q.toNat → 1 ≤ q.toNat → q.toNat ≤ 123 → l.toNat = 2 * q.toNat → t.env.store = []))

/-! ### DELIVER and the frame assembler (spec/41_frame_assembler.md) -/

/-- R83: VALIDATE compares the CRC of buffer bytes 0 to 5 with bytes 6 (low) and 7 (high); on a match the frame's instruction runs in PROCESSING; match or
mismatch, the assembler ends IDLE with length 0. -/
def Obligations.ValidateDispatchesOnAMatchOnly : Prop :=
  ∀ s : State,
    (crc16 [bufByte s 0, bufByte s 1, bufByte s 2, bufByte s 3, bufByte s 4, bufByte s 5] = le16 (bufByte s 6) (bufByte s 7) →
      validate s = andThen (exec (bufFrame s).toInstr { s with ctx := { s.ctx with asm := .processing } })
        (fun t => .next { t with ctx := { t.ctx with asm := .idle, len := 0 } })) ∧
    (crc16 [bufByte s 0, bufByte s 1, bufByte s 2, bufByte s 3, bufByte s 4, bufByte s 5] ≠ le16 (bufByte s 6) (bufByte s 7) →
      validate s = .next { s with ctx := { s.ctx with asm := .idle, len := 0 } })

/-- 41_frame_assembler.md section 1, decision D20: an empty delivery has no effect. -/
def Obligations.EmptyDeliveryChangesNothing : Prop :=
  ∀ (now : Millis) (s : State), s.busy = false → exec (.deliver now []) s = .next s

/-- 41_frame_assembler.md section 1, decision D21: a closed context drops every byte, and the delivery still marks activity and re-arms. -/
def Obligations.ClosedContextDropsTheChunk : Prop :=
  ∀ (now : Millis) (bytes : List Byte) (s : State),
    s.busy = false → s.env.quiet = true → s.ctx.isOpen = false → bytes ≠ [] →
    ∃ t, exec (.deliver now bytes) s = .next t ∧ t.ctx = s.ctx ∧ DeliveredQuietly now s t

/-- 41_frame_assembler.md section 2, decisions D4 to D8: what one byte does in each state of the assembler, where it completes no valid frame. -/
def Obligations.OneByteStepsTheAssembler : Prop :=
  ∀ (now : Millis) (b : Byte) (s : State), s.busy = false → s.env.quiet = true → s.ctx.isOpen = true →
    (s.ctx.asm = .idle → b = s.ctx.devAddr → ∃ t, exec (.deliver now [b]) s = .next t ∧ DeliveredQuietly now s t ∧ StoresByte s t 0 b ∧
      t.ctx = { s.ctx with asm := .receiving, len := 1, crc := crc16Update s.ctx.crc b, buf := t.ctx.buf }) ∧
    (s.ctx.asm = .idle → b ≠ s.ctx.devAddr → ∃ t, exec (.deliver now [b]) s = .next t ∧ DeliveredQuietly now s t ∧
      t.ctx = { s.ctx with crc := crc16Update s.ctx.crc b }) ∧
    (s.ctx.asm = .receiving → s.ctx.len < s.ctx.bufCap → s.ctx.len ≠ 7 →
      ∃ t, exec (.deliver now [b]) s = .next t ∧ DeliveredQuietly now s t ∧ StoresByte s t s.ctx.len b ∧
        t.ctx = { s.ctx with len := s.ctx.len + 1, crc := crc16Update s.ctx.crc b, buf := t.ctx.buf }) ∧
    (s.ctx.asm = .receiving → s.ctx.len = 7 → 8 ≤ s.ctx.bufCap →
      crc16 [bufByte s 0, bufByte s 1, bufByte s 2, bufByte s 3, bufByte s 4, bufByte s 5] ≠ le16 (bufByte s 6) b →
      ∃ t, exec (.deliver now [b]) s = .next t ∧ DeliveredQuietly now s t ∧ StoresByte s t 7 b ∧
        t.ctx = { s.ctx with asm := .idle, len := 0, crc := crc16Update s.ctx.crc b, buf := t.ctx.buf }) ∧
    (s.ctx.asm = .receiving → s.ctx.bufCap ≤ s.ctx.len → ∃ t, exec (.deliver now [b]) s = .next t ∧ DeliveredQuietly now s t ∧
      t.ctx = { s.ctx with asm := .idle, len := 0, crc := crc16Update s.ctx.crc b }) ∧
    (s.ctx.asm = .illegal → ∃ t, exec (.deliver now [b]) s = .next t ∧ DeliveredQuietly now s t ∧
      t.ctx = { s.ctx with asm := .idle, len := 0, crc := crc16Update s.ctx.crc b }) ∧
    (s.ctx.asm = .processing → ∃ final, exec (.deliver now [b]) s = .fault (.reentrant final) ∧ final.fault = some .reentrant ∧
      final.trace = s.trace ∧ final.ctx = { s.ctx with crc := crc16Update s.ctx.crc b })

/-- 41_frame_assembler.md section 3: a stream without the device address leaves an idle assembler idle and causes no transaction but the re-arm (an
inference the spec marks as its own; the source's property E7). -/
def Obligations.StreamWithoutTheAddressIsSkipped : Prop :=
  ∀ (now : Millis) (bytes : List Byte) (s : State), s.busy = false → s.env.quiet = true → s.ctx.isOpen = true →
    s.ctx.asm = .idle → bytes ≠ [] → (∀ b ∈ bytes, b ≠ s.ctx.devAddr) →
    ∃ t, exec (.deliver now bytes) s = .next t ∧ DeliveredQuietly now s t ∧
      t.ctx = { s.ctx with crc := bytes.foldl crc16Update s.ctx.crc }

/-- 41_frame_assembler.md section 3: a request shorter than 8 bytes is held, every byte of it, in RECEIVING (an inference the spec marks as its own). -/
def Obligations.ShortRequestIsHeld : Prop :=
  ∀ (now : Millis) (bytes : List Byte) (s : State), s.busy = false → s.env.quiet = true → s.ctx.isOpen = true →
    s.ctx.asm = .idle → 8 ≤ s.ctx.bufCap → bytes.length ≤ 6 →
    ∃ t, exec (.deliver now (s.ctx.devAddr :: bytes)) s = .next t ∧ DeliveredQuietly now s t ∧
      t.ctx.asm = .receiving ∧ t.ctx.len = bytes.length + 1 ∧
      (List.range t.ctx.len).map (fun i => t.ctx.buf.read? i) = (s.ctx.devAddr :: bytes).map some ∧
      (∀ a, bytes.length < a → t.ctx.buf.read? a = s.ctx.buf.read? a)

/-- 41_frame_assembler.md, the source's property E5: a whole frame with a wrong CRC is absorbed: no handler runs and the assembler is IDLE with
length 0. -/
def Obligations.MismatchedFrameIsAbsorbed : Prop :=
  ∀ (now : Millis) (f : Frame) (s : State), s.busy = false → s.env.quiet = true → s.ctx.isOpen = true →
    s.ctx.asm = .idle → 8 ≤ s.ctx.bufCap → f.addr = s.ctx.devAddr →
    crc16 [f.addr, f.fc, f.p0, f.p1, f.p2, f.p3] ≠ le16 f.crcLo f.crcHi →
    ∃ t, exec (.deliver now f.bytes) s = .next t ∧ DeliveredQuietly now s t ∧ t.ctx.asm = .idle ∧ t.ctx.len = 0 ∧
      t.ctx.isOpen = true ∧ t.ctx.devAddr = s.ctx.devAddr ∧ t.ctx.bufCap = s.ctx.bufCap ∧
      (∀ a, 8 ≤ a → t.ctx.buf.read? a = s.ctx.buf.read? a)

/-- 41_frame_assembler.md sections 1 and 2 (decisions D20, D31; log 2): delivering a whole valid frame to an idle context is running the frame's
instruction with the frame in the buffer and PROCESSING, then the return to IDLE and the end of the delivery; it is also what `step` does from that
state. -/
def Obligations.DeliveredFrameRunsItsInstruction : Prop :=
  ∀ (now : Millis) (f : Frame) (s : State), s.busy = false → s.ctx.isOpen = true → s.ctx.asm = .idle → 8 ≤ s.ctx.bufCap →
    f.addr = s.ctx.devAddr → crc16 [f.addr, f.fc, f.p0, f.p1, f.p2, f.p3] = le16 f.crcLo f.crcHi →
    ∃ u : State, bufFrame u = f ∧
      u = { s with
        ctx := { s.ctx with asm := .processing, len := 8, crc := f.bytes.foldl crc16Update s.ctx.crc, buf := u.ctx.buf }
        sup := { s.sup with lastAct := now }
        busy := true
        rest := [] } ∧
      (∀ a, 8 ≤ a → u.ctx.buf.read? a = s.ctx.buf.read? a) ∧
      exec (.deliver now f.bytes) s =
        andThen (exec f.toInstr u) (fun t => endDeliver { t with ctx := { t.ctx with asm := .idle, len := 0 } }) ∧
      (s.fault = none → s.refusal = none → step u = exec (.deliver now f.bytes) s)

/-- 20_memory.md section 5, decision D31: a stream delivered in two chunks does what it does in one, but for the extra re-arm between them. -/
def Obligations.SplittingAChunkChangesOnlyTheRearms : Prop :=
  ∀ (now : Millis) (xs ys : List Byte) (s t : State), s.busy = false → s.env.rearmReplies = [] → xs ≠ [] → ys ≠ [] →
    exec (.deliver now (xs ++ ys)) s = .next t →
    ∃ u v, exec (.deliver now xs) s = .next u ∧ exec (.deliver now ys) u = .next v ∧
      v.ctx = t.ctx ∧ v.sup = t.sup ∧ v.env = t.env ∧ v.draws = t.draws ∧
      v.trace.filter (fun e => decide (e ≠ .rxRearm)) = t.trace.filter (fun e => decide (e ≠ .rxRearm))

/-- 41_frame_assembler.md section 2, decision D6: a delivery to an open context runs the accumulator over every byte, buffered, skipped or dropped, and
never re-seeds it. -/
def Obligations.EveryDeliveredByteUpdatesTheAccumulator : Prop :=
  ∀ (now : Millis) (bytes : List Byte) (s t : State), s.ctx.isOpen = true → exec (.deliver now bytes) s = .next t →
    t.ctx.crc = bytes.foldl crc16Update s.ctx.crc

/-- 41_frame_assembler.md section 3, 43_response.md, decisions D14 and D20: the frame of DELIVER: of the recovery state only the activity timestamp is
written, no error is counted, the configuration stays, the frame buffer is unchanged from index 8 on, and the last event is the re-arm. -/
def Obligations.DeliverLeavesTheRestAlone : Prop :=
  ∀ (now : Millis) (bytes : List Byte) (s t : State), Inv s → bytes ≠ [] → exec (.deliver now bytes) s = .next t →
    t.sup = { s.sup with lastAct := now } ∧ t.ctx.isOpen = s.ctx.isOpen ∧ t.ctx.devAddr = s.ctx.devAddr ∧
    t.ctx.bufCap = s.ctx.bufCap ∧ t.fault = s.fault ∧ t.refusal = s.refusal ∧ t.inbox = s.inbox ∧ t.busy = false ∧
    (∀ a, 8 ≤ a → t.ctx.buf.read? a = s.ctx.buf.read? a) ∧
    ∃ events, t.trace = s.trace ++ events ++ [.rxRearm] ∧ events.all (fun e => decide (e ≠ .rxRearm)) = true

/-- 41_frame_assembler.md section 1: in a quiet environment a DELIVER of any bytes completes, whatever frames they hold, when no frame can read past the
buffer: the capacity holds the longest payload, or the assembler is idle and no byte is the code of WRITE_MULTIPLE. -/
def Obligations.DeliverCompletes : Prop :=
  ∀ (now : Millis) (bytes : List Byte) (s : State), Inv s → s.busy = false → s.env.quiet = true →
    253 ≤ s.ctx.bufCap ∨ (s.ctx.asm = .idle ∧ ∀ b ∈ bytes, b ≠ 0x10#8) →
    ∃ t, exec (.deliver now bytes) s = .next t ∧ Inv t ∧ t.busy = false

/-! ### The supervisor (spec/44_supervisor.md) -/

/-- 44_supervisor.md section 1, decision D15: elapsed time is the true difference across an overflow of the time input, below 2^32 ms. -/
def Obligations.ElapsedTimeSurvivesTheWrap : Prop :=
  ∀ earlier later : Nat, earlier ≤ later → later - earlier < 2 ^ 32 →
    elapsed (BitVec.ofNat 32 later) (BitVec.ofNat 32 earlier) = later - earlier

/-- 44_supervisor.md section 2, decisions D16 and D17: TICK: the window first, then at most one of threshold, preventive and inactivity reset, in that
priority, with the timestamps each writes; with none, only the window. -/
def Obligations.TickAppliesThePolicy : Prop :=
  ∀ (now : Millis) (s : State) (err : Millis) (win : Millis), s.busy = false → s.env.quiet = true →
    (5000 ≤ (now - s.sup.winStart).toNat ∧ err = 0#32 ∧ win = now ∨
      (now - s.sup.winStart).toNat < 5000 ∧ err = s.sup.errCnt ∧ win = s.sup.winStart) →
    (3 ≤ err.toNat → ∃ t, exec (.tick now) s = .next t ∧ ForcedReset s t ∧
      t.sup = { lastAct := s.sup.lastAct, errCnt := 0#32, winStart := now, lastForced := now }) ∧
    (err.toNat < 3 → 10000 < (now - s.sup.lastForced).toNat → ∃ t, exec (.tick now) s = .next t ∧ ForcedReset s t ∧
      t.sup = { lastAct := s.sup.lastAct, errCnt := err, winStart := win, lastForced := now }) ∧
    (err.toNat < 3 → (now - s.sup.lastForced).toNat ≤ 10000 → 2500 < (now - s.sup.lastAct).toNat →
      ∃ t, exec (.tick now) s = .next t ∧ ForcedReset s t ∧
        t.sup = { lastAct := now, errCnt := err, winStart := win, lastForced := now }) ∧
    (err.toNat < 3 → (now - s.sup.lastForced).toNat ≤ 10000 → (now - s.sup.lastAct).toNat ≤ 2500 →
      exec (.tick now) s = .next { s with sup := { s.sup with errCnt := err, winStart := win } })

/-- 44_supervisor.md section 2: a TICK that completes forces at most one reset, and a reset is exactly what sets `last_forced` and empties the assembler
(an inference the spec marks as its own). -/
def Obligations.TickForcesAtMostOneReset : Prop :=
  ∀ (now : Millis) (s t : State), exec (.tick now) s = .next t →
    (ForcedReset s t ∧ t.sup.lastForced = now) ∨
    (t.ctx = s.ctx ∧ t.trace = s.trace ∧ t.env = s.env ∧ t.sup.lastForced = s.sup.lastForced ∧ t.sup.lastAct = s.sup.lastAct)

/-- 44_supervisor.md section 2, the source's property E6: an inactivity reset is not triggered again by the ticks of the next 2500 ms (an inference
the spec marks as its own). -/
def Obligations.InactivityResetDoesNotRetrigger : Prop :=
  ∀ (at0 : Millis) (s : State), s.busy = false → s.env.quiet = true → s.sup.errCnt.toNat < 3 →
    (at0 - s.sup.lastForced).toNat ≤ 10000 → 2500 < (at0 - s.sup.lastAct).toNat →
    ∃ t, exec (.tick at0) s = .next t ∧ ForcedReset s t ∧
      ∀ now : Millis, (now - at0).toNat ≤ 2500 →
        ∃ u, exec (.tick now) t = .next u ∧ u.ctx = t.ctx ∧ u.trace = t.trace ∧
          u.sup.lastAct = at0 ∧ u.sup.lastForced = at0 ∧ u.sup.errCnt.toNat < 3

/-- 44_supervisor.md section 3, "Must be idempotent": two forced resets leave the block's state as one does, with one more RxRearm (an inference the spec marks as
its own). -/
def Obligations.ForcedResetIsIdempotent : Prop :=
  ∀ s t u : State, forceReset s = .ok t → forceReset t = .ok u →
    u.ctx = t.ctx ∧ u.sup = t.sup ∧ u.busy = t.busy ∧ u.trace = s.trace ++ [.rxRearm, .rxRearm]

/-- 44_supervisor.md section 4, decision D20: MARK_ACTIVITY writes the activity timestamp, an older time as it stands, and nothing else. -/
def Obligations.MarkActivityWritesItsTimestamp : Prop :=
  ∀ (now : Millis) (s : State), s.busy = false →
    exec (.markActivity now) s = .next { s with sup := { s.sup with lastAct := now } }

/-- 44_supervisor.md section 4, decision D18: MARK_ERROR counts one error, saturating at 2^32 - 1, and does nothing else. -/
def Obligations.MarkErrorCountsAndSaturates : Prop :=
  ∀ s : State, s.busy = false →
    ∃ n : Millis, n.toNat = min (s.sup.errCnt.toNat + 1) (2 ^ 32 - 1) ∧
      exec .markError s = .next { s with sup := { s.sup with errCnt := n } }

/-! ### Lifecycle, faults and refusals (spec/60_exceptions.md, spec/70_reset_and_hazards.md) -/

/-- 70_reset_and_hazards.md section 1 (decisions D4 to D9, D19, D22): power-on reset. The address 0, the capacity 8 and the empty buffer are the model's
choices (log 5, log 6, log 8) and no clause is about them. -/
def Obligations.PowerOnResetValues : Prop :=
  ∀ now0 : Millis,
    (State.powerOn now0).ctx.isOpen = false ∧ (State.powerOn now0).ctx.asm = .idle ∧ (State.powerOn now0).ctx.len = 0 ∧
    (State.powerOn now0).ctx.crc = 0xFFFF#16 ∧
    (State.powerOn now0).sup = { lastAct := now0, errCnt := 0#32, winStart := now0, lastForced := now0 } ∧
    (State.powerOn now0).busy = false ∧ (State.powerOn now0).fault = none

/-- 70_reset_and_hazards.md section 2, decisions D5 and D22: OPEN configures a closed context and leaves an open one alone; its status is its output. -/
def Obligations.OpenConfiguresAClosedContext : Prop :=
  ∀ (addr : Byte) (cap : Nat) (s : State), s.busy = false → 8 ≤ cap →
    (s.ctx.isOpen = false → exec (.openContext addr cap) s = .next { s with
      ctx := { isOpen := true, devAddr := addr, bufCap := cap, asm := .idle, len := 0, crc := 0xFFFF#16, buf := s.ctx.buf }
      trace := s.trace ++ [.openStatus .ok] }) ∧
    (s.ctx.isOpen = true → exec (.openContext addr cap) s = .next { s with trace := s.trace ++ [.openStatus .failNoSlot] })

/-- 70_reset_and_hazards.md section 2, decision D22: CLOSE clears the open flag and nothing else. -/
def Obligations.CloseClearsTheOpenFlag : Prop :=
  ∀ s : State, s.busy = false → exec .closeContext s = .next { s with ctx := { s.ctx with isOpen := false } }

/-- 60_exceptions.md section 2, decisions D3 and D5: the reserved selectors are refused on every path, also while an operation is in progress (the
model's choice, log 27), and OPEN with a capacity below 8 is refused, with the refusal mark set (log 18) and nothing else changed. -/
def Obligations.RefusalsOfTheSpec : Prop :=
  (∀ (x : Bool) (args : HostArgs) (s : State),
    exec (.reservedHostop x args) s = .refused (.reservedOp { s with refusal := some .reservedOp })) ∧
  (∀ (addr : Byte) (cap : Nat) (s : State), s.busy = false → cap < 8 →
    exec (.openContext addr cap) s = .refused (.badCap { s with refusal := some .badCap }))

/-- 10_state.md section 4, decision D8: every host operation that starts while another is in progress faults and changes nothing but the mark. -/
def Obligations.EveryOperationFaultsWhenBusy : Prop :=
  ∀ (i : Instr) (s : State), s.busy = true → isRequest i = false → (∀ x args, i ≠ .reservedHostop x args) →
    exec i s = .fault (.reentrant { s with fault := some .reentrant })

/-- 70_reset_and_hazards.md section 4, decision D8 (log 15): a register store that starts an operation while it answers a RegRead or a RegWrite of a
request, the first or a later one, ends the request in REENTRANT, with the transactions before it done. -/
def Obligations.PartnerCallingBackFaults : Prop :=
  ∀ (a : Byte) (start count : Word16) (l h : Byte) (s : State) (answered : List Word16) (later : List (PartnerReply Word16)),
    (s.env.writeReplies = .calls :: later →
      CalledBackAfter [] (.regWrite (regAddr start 0) count) s (exec (.writeSingle a start count l h) s)) ∧
    (s.env.readReplies = answered.map .answers ++ .calls :: later → answered.length < count.toNat → count.toNat ≤ 125 →
      CalledBackAfter (readEvents start 0 answered) (.regRead (regAddr start answered.length)) s (exec (.readHolding a start count l h) s) ∧
      CalledBackAfter (readEvents start 0 answered) (.regRead (regAddr start answered.length)) s (exec (.readInput a start count l h) s)) ∧
    (s.env.writeReplies = answered.map .answers ++ .calls :: later → answered.length < count.toNat → count.toNat ≤ 123 →
      l.toNat = 2 * count.toNat → 8 + 2 * answered.length < s.ctx.bufCap →
      ∃ (ws : List (Word16 × Word16)) (v : Word16), ws.map Prod.snd = answered ∧
        CalledBackAfter (writeEvents start 0 ws) (.regWrite (regAddr start answered.length) v) s (exec (.writeMultiple a start count l h) s))

/-! ### The step -/

/-- One step performs the next host operation of the inbox, or, inside a DELIVER whose frame is being dispatched, the frame's instruction and then the
rest of that DELIVER (20_memory.md section 5; log 1, log 2). -/
def Obligations.StepRunsTheDecodedInstruction : Prop :=
  ∀ (s : State), s.fault = none → s.refusal = none →
    (∀ call later i, (s.busy = false ∨ s.ctx.asm ≠ .processing) → s.inbox = call :: later → decode (.host call) = .ok i →
      step s = exec i { s with inbox := later }) ∧
    (∀ i, s.busy = true → s.ctx.asm = .processing →
      decode (.frame [bufByte s 0, bufByte s 1, bufByte s 2, bufByte s 3, bufByte s 4, bufByte s 5, bufByte s 6, bufByte s 7]) = .ok i →
      step s = andThen (exec i s) resumeDeliver)

/-- 60_exceptions.md section 2, 60_exceptions.md section 6 (decisions D8, D32; log 3, log 17, log 18, log 21): a state with a fault or a refusal has no further step;
with no operation issued the block holds its state; an ill-typed call is refused. -/
def Obligations.StepStopsOnMarksAndIdlesWithoutWork : Prop :=
  (∀ s, s.fault = some .reentrant → step s = .fault (.reentrant s)) ∧
  (∀ s k, s.fault = some (.bufOverread k) → step s = .fault (.bufOverread k s)) ∧
  (∀ s, s.fault = none → s.refusal = some .reservedOp → step s = .refused (.reservedOp s)) ∧
  (∀ s, s.fault = none → s.refusal = some .badCap → step s = .refused (.badCap s)) ∧
  (∀ s op, s.fault = none → s.refusal = some (.illTyped op) → step s = .refused (.illTyped op s)) ∧
  (∀ s, s.fault = none → s.refusal = none → s.busy = false → s.inbox = [] → step s = .next s) ∧
  (∀ s call later, s.fault = none → s.refusal = none → s.busy = false → s.inbox = call :: later →
    decode (.host call) = .error (.illTyped call.op) →
    step s = .refused (.illTyped call.op { s with inbox := later, refusal := some (.illTyped call.op) }))

/-- An instruction placed by `withFetchWord` is the one the very next step runs (log 4). -/
def Obligations.PlacedWordIsRunNext : Prop :=
  ∀ (s : State) (nbits w : Nat) (i : Instr), decodeTableWord nbits w = some i →
    (nbits = 64 → step (s.withFetchWord nbits w) = andThen (exec i (s.withFetchWord nbits w)) resumeDeliver) ∧
    (nbits ≠ 64 → step (s.withFetchWord nbits w) = exec i { s.withFetchWord nbits w with inbox := s.inbox })

/-- The invariant of the block holds after power-on reset. -/
def Obligations.InvariantHoldsAtPowerOn : Prop :=
  ∀ now0 : Millis, Inv (State.powerOn now0)

/-- 10_state.md section 5 (inferences the spec marks as its own; log 2): every step from a state of the invariant leads to a state of it: IDLE and
empty, or RECEIVING 1 to 7 bytes of which the first is the device address, nothing written from index 8 on, canonical memories. -/
def Obligations.StepKeepsTheInvariant : Prop :=
  ∀ s t : State, Inv s → step s = .next t → Inv t

/-! ### More on requests and partners -/

/-- 42_dispatch.md section 5: the reply to a valid WRITE_MULTIPLE frame whose operands are legal and whose payload lies inside the buffer is the request,
byte for byte (an inference the spec marks as its own). -/
def Obligations.WriteMultipleReplyIsTheRequest : Prop :=
  ∀ (f : Frame) (s : State), s.env.quiet = true → f.fc = 0x10#8 → f.addr = s.ctx.devAddr →
    crc16 [f.addr, f.fc, f.p0, f.p1, f.p2, f.p3] = le16 f.crcLo f.crcHi →
    1 ≤ (be16 f.p2 f.p3).toNat → (be16 f.p2 f.p3).toNat ≤ 123 → f.crcLo.toNat = 2 * (be16 f.p2 f.p3).toNat →
    6 + 2 * (be16 f.p2 f.p3).toNat < s.ctx.bufCap →
    ∃ (t : State) (ws : List (Word16 × Word16)) (n : Nat), exec f.toInstr s = .next t ∧ ws.length = (be16 f.p2 f.p3).toNat ∧
      t.trace = s.trace ++ writeEvents (be16 f.p0 f.p1) 0 ws ++ [.transmit f.bytes n]

/-- 70_reset_and_hazards.md section 4, decision D8 (log 15): a transmit sink that starts an operation while it answers ends the request in REENTRANT, just
where the same request completes before a sink that answers: the same transactions, the same reply offered. -/
def Obligations.SinkCallingBackFaults : Prop :=
  ∀ (i : Instr) (s t : State) (later : List (PartnerReply Nat)), isRequest i = true → s.env.sentReplies = .calls :: later →
    exec i { s with env := { s.env with sentReplies := [] } } = .next t →
    ∃ (events : List PortEvent) (bytes : List Byte) (n : Nat),
      t.trace = s.trace ++ events ++ [.transmit bytes n] ∧ CalledBackAfter events (.transmit bytes) s (exec i s)

/-- 70_reset_and_hazards.md section 4, decision D8 (log 15): a byte source that starts an operation on RxRearm ends the DELIVER or the TICK that issues it
in REENTRANT, with what was done before it; a TICK that forces no reset issues none and completes. -/
def Obligations.ByteSourceCallingBackFaults : Prop :=
  ∀ (now : Millis) (bytes : List Byte) (s t : State) (later : List (PartnerReply Unit)), s.env.rearmReplies = .calls :: later →
    (bytes ≠ [] → exec (.deliver now bytes) { s with env := { s.env with rearmReplies := [] } } = .next t →
      ∃ (before : List PortEvent) (final : State), t.trace = before ++ [.rxRearm] ∧
        exec (.deliver now bytes) s = .fault (.reentrant final) ∧ final.fault = some .reentrant ∧
        final.trace = before ++ [.unanswered .rxRearm] ∧ final.ctx = t.ctx ∧ final.sup = t.sup) ∧
    (exec (.tick now) { s with env := { s.env with rearmReplies := [] } } = .next t →
      (t.trace = s.trace ∧ exec (.tick now) s = .next { t with env := s.env }) ∨
      (t.trace = s.trace ++ [.rxRearm] ∧
        ∃ final, exec (.tick now) s = .fault (.reentrant final) ∧ final.fault = some .reentrant ∧
          final.trace = s.trace ++ [.unanswered .rxRearm] ∧ final.ctx = t.ctx ∧
          final.sup.lastForced = s.sup.lastForced ∧ final.sup.lastAct = s.sup.lastAct))
end

