-- ==== Sys2Proof/Laws/State.lean ====
section
/-! SUPPORT. One lemma per field per named state update, each true by definition. -/

namespace Sys2Proof.Machine

/-! ### emit -/

@[simp] theorem State.emit_ctx (s : State) (e : PortEvent) : (s.emit e).ctx = s.ctx := rfl
@[simp] theorem State.emit_sup (s : State) (e : PortEvent) : (s.emit e).sup = s.sup := rfl
@[simp] theorem State.emit_fault (s : State) (e : PortEvent) : (s.emit e).fault = s.fault := rfl
@[simp] theorem State.emit_refusal (s : State) (e : PortEvent) : (s.emit e).refusal = s.refusal := rfl
@[simp] theorem State.emit_busy (s : State) (e : PortEvent) : (s.emit e).busy = s.busy := rfl
@[simp] theorem State.emit_rest (s : State) (e : PortEvent) : (s.emit e).rest = s.rest := rfl
@[simp] theorem State.emit_env (s : State) (e : PortEvent) : (s.emit e).env = s.env := rfl
@[simp] theorem State.emit_draws (s : State) (e : PortEvent) : (s.emit e).draws = s.draws := rfl
@[simp] theorem State.emit_inbox (s : State) (e : PortEvent) : (s.emit e).inbox = s.inbox := rfl
@[simp] theorem State.emit_trace (s : State) (e : PortEvent) : (s.emit e).trace = s.trace ++ [e] := rfl

/-! ### drawn -/

@[simp] theorem State.drawn_ctx (s : State) : (s.drawn).ctx = s.ctx := rfl
@[simp] theorem State.drawn_sup (s : State) : (s.drawn).sup = s.sup := rfl
@[simp] theorem State.drawn_fault (s : State) : (s.drawn).fault = s.fault := rfl
@[simp] theorem State.drawn_refusal (s : State) : (s.drawn).refusal = s.refusal := rfl
@[simp] theorem State.drawn_busy (s : State) : (s.drawn).busy = s.busy := rfl
@[simp] theorem State.drawn_rest (s : State) : (s.drawn).rest = s.rest := rfl
@[simp] theorem State.drawn_env (s : State) : (s.drawn).env = s.env := rfl
@[simp] theorem State.drawn_draws (s : State) : (s.drawn).draws = s.draws + 1 := rfl
@[simp] theorem State.drawn_inbox (s : State) : (s.drawn).inbox = s.inbox := rfl
@[simp] theorem State.drawn_trace (s : State) : (s.drawn).trace = s.trace := rfl

/-! ### setBusy -/

@[simp] theorem State.setBusy_ctx (s : State) (b : Bool) : (s.setBusy b).ctx = s.ctx := rfl
@[simp] theorem State.setBusy_sup (s : State) (b : Bool) : (s.setBusy b).sup = s.sup := rfl
@[simp] theorem State.setBusy_fault (s : State) (b : Bool) : (s.setBusy b).fault = s.fault := rfl
@[simp] theorem State.setBusy_refusal (s : State) (b : Bool) : (s.setBusy b).refusal = s.refusal := rfl
@[simp] theorem State.setBusy_busy (s : State) (b : Bool) : (s.setBusy b).busy = b := rfl
@[simp] theorem State.setBusy_rest (s : State) (b : Bool) : (s.setBusy b).rest = s.rest := rfl
@[simp] theorem State.setBusy_env (s : State) (b : Bool) : (s.setBusy b).env = s.env := rfl
@[simp] theorem State.setBusy_draws (s : State) (b : Bool) : (s.setBusy b).draws = s.draws := rfl
@[simp] theorem State.setBusy_inbox (s : State) (b : Bool) : (s.setBusy b).inbox = s.inbox := rfl
@[simp] theorem State.setBusy_trace (s : State) (b : Bool) : (s.setBusy b).trace = s.trace := rfl

/-! ### setRest -/

@[simp] theorem State.setRest_ctx (s : State) (bytes : List Byte) : (s.setRest bytes).ctx = s.ctx := rfl
@[simp] theorem State.setRest_sup (s : State) (bytes : List Byte) : (s.setRest bytes).sup = s.sup := rfl
@[simp] theorem State.setRest_fault (s : State) (bytes : List Byte) : (s.setRest bytes).fault = s.fault := rfl
@[simp] theorem State.setRest_refusal (s : State) (bytes : List Byte) : (s.setRest bytes).refusal = s.refusal := rfl
@[simp] theorem State.setRest_busy (s : State) (bytes : List Byte) : (s.setRest bytes).busy = s.busy := rfl
@[simp] theorem State.setRest_rest (s : State) (bytes : List Byte) : (s.setRest bytes).rest = bytes := rfl
@[simp] theorem State.setRest_env (s : State) (bytes : List Byte) : (s.setRest bytes).env = s.env := rfl
@[simp] theorem State.setRest_draws (s : State) (bytes : List Byte) : (s.setRest bytes).draws = s.draws := rfl
@[simp] theorem State.setRest_inbox (s : State) (bytes : List Byte) : (s.setRest bytes).inbox = s.inbox := rfl
@[simp] theorem State.setRest_trace (s : State) (bytes : List Byte) : (s.setRest bytes).trace = s.trace := rfl

/-! ### setAsm -/

@[simp] theorem State.setAsm_ctx (s : State) (a : AsmState) : (s.setAsm a).ctx = { s.ctx with asm := a } := rfl
@[simp] theorem State.setAsm_sup (s : State) (a : AsmState) : (s.setAsm a).sup = s.sup := rfl
@[simp] theorem State.setAsm_fault (s : State) (a : AsmState) : (s.setAsm a).fault = s.fault := rfl
@[simp] theorem State.setAsm_refusal (s : State) (a : AsmState) : (s.setAsm a).refusal = s.refusal := rfl
@[simp] theorem State.setAsm_busy (s : State) (a : AsmState) : (s.setAsm a).busy = s.busy := rfl
@[simp] theorem State.setAsm_rest (s : State) (a : AsmState) : (s.setAsm a).rest = s.rest := rfl
@[simp] theorem State.setAsm_env (s : State) (a : AsmState) : (s.setAsm a).env = s.env := rfl
@[simp] theorem State.setAsm_draws (s : State) (a : AsmState) : (s.setAsm a).draws = s.draws := rfl
@[simp] theorem State.setAsm_inbox (s : State) (a : AsmState) : (s.setAsm a).inbox = s.inbox := rfl
@[simp] theorem State.setAsm_trace (s : State) (a : AsmState) : (s.setAsm a).trace = s.trace := rfl

/-! ### toIdle -/

@[simp] theorem State.toIdle_ctx (s : State) : (s.toIdle).ctx = { s.ctx with asm := .idle, len := 0 } := rfl
@[simp] theorem State.toIdle_sup (s : State) : (s.toIdle).sup = s.sup := rfl
@[simp] theorem State.toIdle_fault (s : State) : (s.toIdle).fault = s.fault := rfl
@[simp] theorem State.toIdle_refusal (s : State) : (s.toIdle).refusal = s.refusal := rfl
@[simp] theorem State.toIdle_busy (s : State) : (s.toIdle).busy = s.busy := rfl
@[simp] theorem State.toIdle_rest (s : State) : (s.toIdle).rest = s.rest := rfl
@[simp] theorem State.toIdle_env (s : State) : (s.toIdle).env = s.env := rfl
@[simp] theorem State.toIdle_draws (s : State) : (s.toIdle).draws = s.draws := rfl
@[simp] theorem State.toIdle_inbox (s : State) : (s.toIdle).inbox = s.inbox := rfl
@[simp] theorem State.toIdle_trace (s : State) : (s.toIdle).trace = s.trace := rfl

/-! ### setCrc -/

@[simp] theorem State.setCrc_ctx (s : State) (c : Word16) : (s.setCrc c).ctx = { s.ctx with crc := c } := rfl
@[simp] theorem State.setCrc_sup (s : State) (c : Word16) : (s.setCrc c).sup = s.sup := rfl
@[simp] theorem State.setCrc_fault (s : State) (c : Word16) : (s.setCrc c).fault = s.fault := rfl
@[simp] theorem State.setCrc_refusal (s : State) (c : Word16) : (s.setCrc c).refusal = s.refusal := rfl
@[simp] theorem State.setCrc_busy (s : State) (c : Word16) : (s.setCrc c).busy = s.busy := rfl
@[simp] theorem State.setCrc_rest (s : State) (c : Word16) : (s.setCrc c).rest = s.rest := rfl
@[simp] theorem State.setCrc_env (s : State) (c : Word16) : (s.setCrc c).env = s.env := rfl
@[simp] theorem State.setCrc_draws (s : State) (c : Word16) : (s.setCrc c).draws = s.draws := rfl
@[simp] theorem State.setCrc_inbox (s : State) (c : Word16) : (s.setCrc c).inbox = s.inbox := rfl
@[simp] theorem State.setCrc_trace (s : State) (c : Word16) : (s.setCrc c).trace = s.trace := rfl

/-! ### putByte -/

@[simp] theorem State.putByte_ctx (s : State) (i : Nat) (b : Byte) : (s.putByte i b).ctx = { s.ctx with buf := s.ctx.buf.write i b, len := i + 1 } := rfl
@[simp] theorem State.putByte_sup (s : State) (i : Nat) (b : Byte) : (s.putByte i b).sup = s.sup := rfl
@[simp] theorem State.putByte_fault (s : State) (i : Nat) (b : Byte) : (s.putByte i b).fault = s.fault := rfl
@[simp] theorem State.putByte_refusal (s : State) (i : Nat) (b : Byte) : (s.putByte i b).refusal = s.refusal := rfl
@[simp] theorem State.putByte_busy (s : State) (i : Nat) (b : Byte) : (s.putByte i b).busy = s.busy := rfl
@[simp] theorem State.putByte_rest (s : State) (i : Nat) (b : Byte) : (s.putByte i b).rest = s.rest := rfl
@[simp] theorem State.putByte_env (s : State) (i : Nat) (b : Byte) : (s.putByte i b).env = s.env := rfl
@[simp] theorem State.putByte_draws (s : State) (i : Nat) (b : Byte) : (s.putByte i b).draws = s.draws := rfl
@[simp] theorem State.putByte_inbox (s : State) (i : Nat) (b : Byte) : (s.putByte i b).inbox = s.inbox := rfl
@[simp] theorem State.putByte_trace (s : State) (i : Nat) (b : Byte) : (s.putByte i b).trace = s.trace := rfl

/-! ### touch -/

@[simp] theorem State.touch_ctx (s : State) (now : Millis) : (s.touch now).ctx = s.ctx := rfl
@[simp] theorem State.touch_sup (s : State) (now : Millis) : (s.touch now).sup = { s.sup with lastAct := now } := rfl
@[simp] theorem State.touch_fault (s : State) (now : Millis) : (s.touch now).fault = s.fault := rfl
@[simp] theorem State.touch_refusal (s : State) (now : Millis) : (s.touch now).refusal = s.refusal := rfl
@[simp] theorem State.touch_busy (s : State) (now : Millis) : (s.touch now).busy = s.busy := rfl
@[simp] theorem State.touch_rest (s : State) (now : Millis) : (s.touch now).rest = s.rest := rfl
@[simp] theorem State.touch_env (s : State) (now : Millis) : (s.touch now).env = s.env := rfl
@[simp] theorem State.touch_draws (s : State) (now : Millis) : (s.touch now).draws = s.draws := rfl
@[simp] theorem State.touch_inbox (s : State) (now : Millis) : (s.touch now).inbox = s.inbox := rfl
@[simp] theorem State.touch_trace (s : State) (now : Millis) : (s.touch now).trace = s.trace := rfl

/-! ### setEnv -/

@[simp] theorem State.setEnv_ctx (s : State) (e : Env) : (s.setEnv e).ctx = s.ctx := rfl
@[simp] theorem State.setEnv_sup (s : State) (e : Env) : (s.setEnv e).sup = s.sup := rfl
@[simp] theorem State.setEnv_fault (s : State) (e : Env) : (s.setEnv e).fault = s.fault := rfl
@[simp] theorem State.setEnv_refusal (s : State) (e : Env) : (s.setEnv e).refusal = s.refusal := rfl
@[simp] theorem State.setEnv_busy (s : State) (e : Env) : (s.setEnv e).busy = s.busy := rfl
@[simp] theorem State.setEnv_rest (s : State) (e : Env) : (s.setEnv e).rest = s.rest := rfl
@[simp] theorem State.setEnv_env (s : State) (e : Env) : (s.setEnv e).env = e := rfl
@[simp] theorem State.setEnv_draws (s : State) (e : Env) : (s.setEnv e).draws = s.draws := rfl
@[simp] theorem State.setEnv_inbox (s : State) (e : Env) : (s.setEnv e).inbox = s.inbox := rfl
@[simp] theorem State.setEnv_trace (s : State) (e : Env) : (s.setEnv e).trace = s.trace := rfl

/-! ### setSup -/

@[simp] theorem State.setSup_ctx (s : State) (u : Sup) : (s.setSup u).ctx = s.ctx := rfl
@[simp] theorem State.setSup_sup (s : State) (u : Sup) : (s.setSup u).sup = u := rfl
@[simp] theorem State.setSup_fault (s : State) (u : Sup) : (s.setSup u).fault = s.fault := rfl
@[simp] theorem State.setSup_refusal (s : State) (u : Sup) : (s.setSup u).refusal = s.refusal := rfl
@[simp] theorem State.setSup_busy (s : State) (u : Sup) : (s.setSup u).busy = s.busy := rfl
@[simp] theorem State.setSup_rest (s : State) (u : Sup) : (s.setSup u).rest = s.rest := rfl
@[simp] theorem State.setSup_env (s : State) (u : Sup) : (s.setSup u).env = s.env := rfl
@[simp] theorem State.setSup_draws (s : State) (u : Sup) : (s.setSup u).draws = s.draws := rfl
@[simp] theorem State.setSup_inbox (s : State) (u : Sup) : (s.setSup u).inbox = s.inbox := rfl
@[simp] theorem State.setSup_trace (s : State) (u : Sup) : (s.setSup u).trace = s.trace := rfl

end Sys2Proof.Machine
end

