-- ==== Sys2Proof/Laws/Ops.lean ====
section
/-! SUPPORT. What each shared operation can do, said once: cells, the frame buffer, the ports and the replies. -/

namespace Sys2Proof.Machine

/-! ### Sequencing -/

@[simp] theorem andThen_next (s : State) (f : State → Result) : andThen (.next s) f = f s := rfl
@[simp] theorem andThen_fault (e : Fault) (f : State → Result) : andThen (.fault e) f = .fault e := rfl
@[simp] theorem andThen_refused (e : Refusal) (f : State → Result) : andThen (.refused e) f = .refused e := rfl
@[simp] theorem ofExcept_ok (s : State) : ofExcept (.ok s) = .next s := rfl
@[simp] theorem ofExcept_error (e : Fault) : ofExcept (.error e) = .fault e := rfl

/-- A sequence answers a next state exactly when both parts do. -/
theorem andThen_eq_next {r : Result} {f : State → Result} {t : State} (h : andThen r f = .next t) :
    ∃ s, r = .next s ∧ f s = .next t := by
  cases r with
  | next s => exact ⟨s, rfl, h⟩
  | fault e => cases h
  | refused e => cases h

theorem andThen_assoc (r : Result) (f g : State → Result) :
    andThen (andThen r f) g = andThen r (fun s => andThen (f s) g) := by
  cases r <;> rfl

theorem unlessBusy_of_not_busy {s : State} (h : s.busy = false) (op : State → Result) : unlessBusy s op = op s := by
  simp [unlessBusy, h]

theorem unlessBusy_of_busy {s : State} (h : s.busy = true) (op : State → Result) :
    unlessBusy s op = .fault (.reentrant { s with fault := some .reentrant }) := by
  simp [unlessBusy, h, raiseFault, faultOf]

/-! ### Cells -/

section Cells
variable {α : Type}

@[simp] theorem cellGet_nil (k : Nat) : cellGet ([] : List (Nat × α)) k = none := rfl

/-- A read of the cell just written gives the value written. -/
@[simp] theorem cellGet_cellSet_same (m : List (Nat × α)) (k : Nat) (v : α) : cellGet (cellSet m k v) k = some v := by
  induction m with
  | nil => simp [cellSet, cellGet]
  | cons c m ih =>
    obtain ⟨a, w⟩ := c
    simp only [cellSet]
    split
    · simp [cellGet]
    · split
      · simp [cellGet]
      · next h => simp [cellGet, ih, Ne.symm h]

/-- A write leaves every other cell alone. -/
theorem cellGet_cellSet_ne (m : List (Nat × α)) {k j : Nat} (v : α) (h : j ≠ k) : cellGet (cellSet m k v) j = cellGet m j := by
  induction m with
  | nil => simp [cellSet, cellGet, Ne.symm h]
  | cons c m ih =>
    obtain ⟨a, w⟩ := c
    simp only [cellSet]
    split
    · simp [cellGet, Ne.symm h]
    · split
      · next hk => subst hk; simp [cellGet, Ne.symm h]
      · simp only [cellGet, ih]

/-- The keys of a list that is in canonical form after a smaller key. -/
theorem cellsWf_cons_iff (a : Nat) (v : α) (m : List (Nat × α)) :
    cellsWf ((a, v) :: m) = true ↔ (∀ c ∈ m, a < c.1) ∧ cellsWf m = true := by
  induction m generalizing a v with
  | nil => simp [cellsWf]
  | cons c m ih =>
    obtain ⟨b, w⟩ := c
    simp only [cellsWf, Bool.and_eq_true, decide_eq_true_eq, List.mem_cons, forall_eq_or_imp, ih]
    constructor
    · rintro ⟨h, h1, h2⟩
      exact ⟨⟨h, fun c hc => lt_trans h (h1 c hc)⟩, h1, h2⟩
    · rintro ⟨⟨h, -⟩, h1, h2⟩
      exact ⟨h, h1, h2⟩

theorem mem_cellSet {m : List (Nat × α)} {k : Nat} {v : α} {c : Nat × α} (h : c ∈ cellSet m k v) : c = (k, v) ∨ c ∈ m := by
  induction m with
  | nil => simpa [cellSet] using h
  | cons d m ih =>
    obtain ⟨a, w⟩ := d
    simp only [cellSet] at h
    split at h
    · simpa using h
    · split at h
      · rcases List.mem_cons.1 h with h | h
        · exact .inl h
        · exact .inr (List.mem_cons_of_mem _ h)
      · rcases List.mem_cons.1 h with h | h
        · exact .inr (by simp [h])
        · exact (ih h).imp_right (List.mem_cons_of_mem _)

/-- A write keeps the canonical form. -/
theorem cellsWf_cellSet {m : List (Nat × α)} (h : cellsWf m = true) (k : Nat) (v : α) : cellsWf (cellSet m k v) = true := by
  induction m with
  | nil => rfl
  | cons c m ih =>
    obtain ⟨a, w⟩ := c
    obtain ⟨h1, h2⟩ := (cellsWf_cons_iff a w m).1 h
    simp only [cellSet]
    split
    · next hk =>
      refine (cellsWf_cons_iff k v _).2 ⟨?_, h⟩
      rintro c hc
      rcases List.mem_cons.1 hc with rfl | hc
      · exact hk
      · exact lt_trans hk (h1 c hc)
    · split
      · next _ hk => subst hk; exact (cellsWf_cons_iff k v _).2 ⟨h1, h2⟩
      · next hk hne =>
        refine (cellsWf_cons_iff a w _).2 ⟨fun c hc => ?_, ih h2⟩
        rcases mem_cellSet hc with rfl | hc
        · exact lt_of_le_of_ne (not_lt.1 hk) (Ne.symm hne)
        · exact h1 c hc

end Cells

/-- Writing the frame buffer keeps its canonical form. -/
theorem Memory.wf_write {m : Memory} (h : m.wf = true) (i : Nat) (b : Byte) : (m.write i b).wf = true := cellsWf_cellSet h i b

@[simp] theorem Memory.read_write_same (m : Memory) (i : Nat) (b : Byte) : (m.write i b).read? i = some b :=
  cellGet_cellSet_same m i b

theorem Memory.read_write_ne (m : Memory) {i j : Nat} (b : Byte) (h : j ≠ i) : (m.write i b).read? j = m.read? j :=
  cellGet_cellSet_ne m b h

theorem reset_memory_wf : State.reset.ctx.buf.wf = true := rfl

/-- Placing a request's bytes keeps the canonical form. -/
theorem writeBytes_wf {m : Memory} (h : m.wf = true) (i : Nat) (bytes : List Byte) : (writeBytes m i bytes).wf = true := by
  induction bytes generalizing m i with
  | nil => exact h
  | cons b bytes ih => exact ih (Memory.wf_write h i b) (i + 1)

/-! ### The known registers -/

theorem inRegisterMap_iff (la : LogAddr) : inRegisterMap la = true ↔ 40001 ≤ la.toNat ∧ la.toNat < 40021 := by
  unfold inRegisterMap
  rw [Bool.and_eq_true, decide_eq_true_eq, decide_eq_true_eq]
  exact Iff.rfl

@[simp] theorem knownRegister_nil (la : LogAddr) : knownRegister [] la = none := by simp [knownRegister]

/-- What is known is what is listed, inside the register map. -/
theorem knownRegister_eq_some {store : List (Nat × Word16)} {la : LogAddr} {v : Word16} :
    knownRegister store la = some v ↔ inRegisterMap la = true ∧ cellGet store la.toNat = some v := by
  unfold knownRegister
  split <;> simp [*]

@[simp] theorem storeAfter_nil (la : LogAddr) (v : Word16) : storeAfter [] la v = [] := by simp [storeAfter]

theorem storeAfter_of_known {store : List (Nat × Word16)} {la : LogAddr} (h : (knownRegister store la).isSome = true) (v : Word16) :
    storeAfter store la v = cellSet store la.toNat v := by
  simp [storeAfter, h]

theorem storeAfter_of_unknown {store : List (Nat × Word16)} {la : LogAddr} (h : knownRegister store la = none) (v : Word16) :
    storeAfter store la v = [] := by
  simp [storeAfter, h]

/-- A known register holds the value an access left in it. -/
theorem knownRegister_storeAfter {store : List (Nat × Word16)} {la : LogAddr} (h : (knownRegister store la).isSome = true) (v : Word16) :
    knownRegister (storeAfter store la v) la = some v := by
  obtain ⟨w, hw⟩ := Option.isSome_iff_exists.1 h
  rw [storeAfter_of_known h]
  exact knownRegister_eq_some.2 ⟨(knownRegister_eq_some.1 hw).1, cellGet_cellSet_same _ _ _⟩

theorem storeAfter_wf {store : List (Nat × Word16)} (h : cellsWf store = true) (la : LogAddr) (v : Word16) :
    cellsWf (storeAfter store la v) = true := by
  unfold storeAfter
  split
  · exact cellsWf_cellSet h _ _
  · rfl

/-! ### The block is left alone -/

theorem BlockUnchanged.refl (s : State) : BlockUnchanged s s := ⟨rfl, rfl, rfl, rfl, rfl, rfl, rfl⟩

theorem BlockUnchanged.trans {s t u : State} (h : BlockUnchanged s t) (k : BlockUnchanged t u) : BlockUnchanged s u :=
  ⟨k.ctx.trans h.ctx, k.sup.trans h.sup, k.fault.trans h.fault, k.refusal.trans h.refusal, k.busy.trans h.busy,
    k.rest.trans h.rest, k.inbox.trans h.inbox⟩

/-! ### The frame buffer -/

/-- `bufRead` has three cases (R35): a byte of the frame, a fresh draw, or the fault. -/
theorem bufRead_cases (i : Nat) (s : State) :
    (i < Config.frameLen ∧ bufRead i s = .ok (bufByte s i, s)) ∨
    (Config.frameLen ≤ i ∧ i < s.ctx.bufCap ∧ bufRead i s = .ok (Config.freeByte s.draws, s.drawn)) ∨
    (Config.frameLen ≤ i ∧ s.ctx.bufCap ≤ i ∧ bufRead i s = .error (raiseFault (.bufOverread i) s)) := by
  unfold bufRead
  by_cases h : i < Config.frameLen
  · simp [h]
  · by_cases k : i < s.ctx.bufCap
    · exact .inr (.inl ⟨not_lt.1 h, k, by simp [h, k]⟩)
    · exact .inr (.inr ⟨not_lt.1 h, not_lt.1 k, by simp [h, k]⟩)

/-- A read of the frame buffer changes nothing but the draw counter. -/
theorem bufRead_ok {i : Nat} {s t : State} {b : Byte} (h : bufRead i s = .ok (b, t)) : t = s ∨ t = s.drawn := by
  obtain ⟨-, e⟩ | ⟨-, -, e⟩ | ⟨-, -, e⟩ := bufRead_cases i s <;> rw [e] at h <;> cases h <;> simp

/-! ### The ports -/

/-- What a RegRead that is answered does: one event, the block untouched, the other partners untouched. -/
theorem regRead_ok {la : LogAddr} {s t : State} {v : Word16} (h : regRead la s = .ok (v, t)) :
    BlockUnchanged s t ∧ t.trace = s.trace ++ [.regRead la v] ∧
      t.env.readReplies = s.env.readReplies.tail ∧ t.env.writeReplies = s.env.writeReplies ∧
      t.env.sentReplies = s.env.sentReplies ∧ t.env.rearmReplies = s.env.rearmReplies ∧
      (t.env.store = s.env.store ∨ t.env.store = storeAfter s.env.store la v) := by
  unfold regRead at h
  split at h
  · cases h
  · next e => cases h; exact ⟨⟨rfl, rfl, rfl, rfl, rfl, rfl, rfl⟩, rfl, by simp [e], rfl, rfl, rfl, .inr rfl⟩
  · next e =>
    split at h
    · cases h; exact ⟨⟨rfl, rfl, rfl, rfl, rfl, rfl, rfl⟩, rfl, by simp [e], rfl, rfl, rfl, .inl rfl⟩
    · next k =>
      cases h
      exact ⟨⟨rfl, rfl, rfl, rfl, rfl, rfl, rfl⟩, rfl, by simp [e], rfl, rfl, rfl, .inr (storeAfter_of_unknown k _).symm⟩

/-- What a RegWrite that is answered does: one event with the store's answer, the block untouched. -/
theorem regWrite_ok {la : LogAddr} {v : Word16} {s t : State} (h : regWrite la v s = .ok t) :
    BlockUnchanged s t ∧ ∃ stored, t.trace = s.trace ++ [.regWrite la v stored] ∧
      t.env.readReplies = s.env.readReplies ∧ t.env.writeReplies = s.env.writeReplies.tail ∧
      t.env.sentReplies = s.env.sentReplies ∧ t.env.rearmReplies = s.env.rearmReplies ∧
      t.env.store = storeAfter s.env.store la stored := by
  unfold regWrite at h
  split at h
  · cases h
  · next stored _ e =>
    cases h
    exact ⟨⟨rfl, rfl, rfl, rfl, rfl, rfl, rfl⟩, stored, rfl, rfl, by simp [e], rfl, rfl, rfl⟩
  · next e =>
    split at h
    · cases h
      exact ⟨⟨rfl, rfl, rfl, rfl, rfl, rfl, rfl⟩, v, rfl, rfl, by simp [e], rfl, rfl, rfl⟩
    · next k =>
      cases h
      exact ⟨⟨rfl, rfl, rfl, rfl, rfl, rfl, rfl⟩, Config.freeWord s.draws, rfl, rfl, by simp [e], rfl, rfl,
        (storeAfter_of_unknown k _).symm⟩

/-- What a Transmit that is answered does: one event, with an answer in `0 .. |L|` (R106). -/
theorem transmit_ok {bytes : List Byte} {s t : State} (h : transmit bytes s = .ok t) :
    BlockUnchanged s t ∧ ∃ n ≤ bytes.length, t.trace = s.trace ++ [.transmit bytes n] ∧
      t.env = { s.env with sentReplies := s.env.sentReplies.tail } := by
  unfold transmit at h
  split at h
  · cases h
  · next n _ e =>
    cases h
    exact ⟨⟨rfl, rfl, rfl, rfl, rfl, rfl, rfl⟩, _, Nat.min_le_right _ _, rfl, by simp [e]⟩
  · next e =>
    cases h
    refine ⟨⟨rfl, rfl, rfl, rfl, rfl, rfl, rfl⟩, _, Nat.min_le_right _ _, rfl, ?_⟩
    show s.env = _
    rw [e]; rw [List.tail_nil, ← e]

/-- What an RxRearm that returns does: one event. -/
theorem rxRearm_ok {s t : State} (h : rxRearm s = .ok t) :
    BlockUnchanged s t ∧ t.draws = s.draws ∧ t.trace = s.trace ++ [.rxRearm] ∧
      t.env = { s.env with rearmReplies := s.env.rearmReplies.tail } := by
  unfold rxRearm at h
  split at h
  · cases h
  · next e => cases h; exact ⟨⟨rfl, rfl, rfl, rfl, rfl, rfl, rfl⟩, rfl, rfl, by simp [e]⟩
  · next e =>
    cases h
    refine ⟨⟨rfl, rfl, rfl, rfl, rfl, rfl, rfl⟩, rfl, rfl, ?_⟩
    show s.env = _
    rw [e]; rw [List.tail_nil, ← e]

/-! ### A quiet environment answers, and stays quiet -/

theorem quiet_iff (e : Env) :
    e.quiet = true ↔ (e.readReplies.all (·.isAnswer) = true ∧ e.writeReplies.all (·.isAnswer) = true ∧
      e.sentReplies.all (·.isAnswer) = true ∧ e.rearmReplies.all (·.isAnswer) = true) := by
  simp only [Env.quiet, Bool.and_eq_true]
  tauto

theorem all_tail {α : Type} {p : α → Bool} {l : List α} (h : l.all p = true) : l.tail.all p = true := by
  cases l with
  | nil => rfl
  | cons a l => simp only [List.all_cons, Bool.and_eq_true] at h; exact h.2

/-- A quiet store answers a RegRead. -/
theorem regRead_of_quiet {s : State} (h : s.env.quiet = true) (la : LogAddr) :
    ∃ v t, regRead la s = .ok (v, t) ∧ t.env.quiet = true := by
  obtain ⟨h1, h2, h3, h4⟩ := (quiet_iff _).1 h
  have key : ∀ v t, regRead la s = .ok (v, t) → t.env.quiet = true := fun v t e => by
    obtain ⟨-, -, r, w, d, a, -⟩ := regRead_ok e
    exact (quiet_iff _).2 ⟨by rw [r]; exact all_tail h1, by rw [w]; exact h2, by rw [d]; exact h3, by rw [a]; exact h4⟩
  obtain ⟨v, t, e⟩ : ∃ v t, regRead la s = .ok (v, t) := by
    unfold regRead
    split
    · next e => simp [e, PartnerReply.isAnswer] at h1
    · exact ⟨_, _, rfl⟩
    · split <;> exact ⟨_, _, rfl⟩
  exact ⟨v, t, e, key v t e⟩

/-- A quiet store answers a RegWrite. -/
theorem regWrite_of_quiet {s : State} (h : s.env.quiet = true) (la : LogAddr) (v : Word16) :
    ∃ t, regWrite la v s = .ok t ∧ t.env.quiet = true := by
  obtain ⟨h1, h2, h3, h4⟩ := (quiet_iff _).1 h
  have key : ∀ t, regWrite la v s = .ok t → t.env.quiet = true := fun t e => by
    obtain ⟨-, _, -, r, w, d, a, -⟩ := regWrite_ok e
    exact (quiet_iff _).2 ⟨by rw [r]; exact h1, by rw [w]; exact all_tail h2, by rw [d]; exact h3, by rw [a]; exact h4⟩
  obtain ⟨t, e⟩ : ∃ t, regWrite la v s = .ok t := by
    unfold regWrite
    split
    · next e => simp [e, PartnerReply.isAnswer] at h2
    · exact ⟨_, rfl⟩
    · split <;> exact ⟨_, rfl⟩
  exact ⟨t, e, key t e⟩

/-- A quiet sink answers a Transmit. -/
theorem transmit_of_quiet {s : State} (h : s.env.quiet = true) (bytes : List Byte) :
    ∃ t, transmit bytes s = .ok t ∧ t.env.quiet = true := by
  obtain ⟨h1, h2, h3, h4⟩ := (quiet_iff _).1 h
  have key : ∀ t, transmit bytes s = .ok t → t.env.quiet = true := fun t e => by
    obtain ⟨-, _, -, -, k⟩ := transmit_ok e
    rw [k]; exact (quiet_iff _).2 ⟨h1, h2, all_tail h3, h4⟩
  obtain ⟨t, e⟩ : ∃ t, transmit bytes s = .ok t := by
    unfold transmit
    split
    · next e => simp [e, PartnerReply.isAnswer] at h3
    · exact ⟨_, rfl⟩
    · exact ⟨_, rfl⟩
  exact ⟨t, e, key t e⟩

/-- A quiet byte source lets RxRearm return. -/
theorem rxRearm_of_quiet {s : State} (h : s.env.quiet = true) : ∃ t, rxRearm s = .ok t ∧ t.env.quiet = true := by
  obtain ⟨h1, h2, h3, h4⟩ := (quiet_iff _).1 h
  have key : ∀ t, rxRearm s = .ok t → t.env.quiet = true := fun t e => by
    obtain ⟨-, -, -, k⟩ := rxRearm_ok e
    rw [k]; exact (quiet_iff _).2 ⟨h1, h2, h3, all_tail h4⟩
  obtain ⟨t, e⟩ : ∃ t, rxRearm s = .ok t := by
    unfold rxRearm
    split
    · next e => simp [e, PartnerReply.isAnswer] at h4
    · exact ⟨_, rfl⟩
    · exact ⟨_, rfl⟩
  exact ⟨t, e, key t e⟩

/-! ### Replies and the forced reset -/

/-- What a reply that is sent does: one Transmit of the reply's bytes (R104), the block untouched. -/
theorem send_next {fc : Byte} {payload : List Byte} {s t : State} (h : send fc payload s = .next t) :
    BlockUnchanged s t ∧ ∃ n ≤ (replyBytes s fc payload).length,
      t.trace = s.trace ++ [.transmit (replyBytes s fc payload) n] ∧
      t.env = { s.env with sentReplies := s.env.sentReplies.tail } := by
  unfold send at h
  cases e : transmit (replyBytes s fc payload) s with
  | error f => rw [e] at h; cases h
  | ok u => rw [e] at h; cases h; exact transmit_ok e

/-- A quiet sink lets a reply be sent. -/
theorem send_of_quiet {s : State} (h : s.env.quiet = true) (fc : Byte) (payload : List Byte) :
    ∃ t, send fc payload s = .next t ∧ t.env.quiet = true := by
  obtain ⟨t, e, q⟩ := transmit_of_quiet h (replyBytes s fc payload)
  exact ⟨t, by simp [send, e], q⟩

/-- What a forced reset that completes does (R117): the assembler idle and re-seeded, one RxRearm, nothing else. -/
theorem forceReset_ok {s t : State} (h : forceReset s = .ok t) :
    t.ctx = { s.ctx with asm := .idle, len := 0, crc := Config.crcSeed } ∧ t.sup = s.sup ∧ t.fault = s.fault ∧
      t.refusal = s.refusal ∧ t.busy = s.busy ∧ t.rest = s.rest ∧ t.inbox = s.inbox ∧ t.draws = s.draws ∧
      t.trace = s.trace ++ [.rxRearm] ∧ t.env = { s.env with rearmReplies := s.env.rearmReplies.tail } := by
  obtain ⟨b, d, k, e⟩ := rxRearm_ok h
  exact ⟨b.ctx, b.sup, b.fault, b.refusal, b.busy, b.rest, b.inbox, d, k, e⟩

/-- A quiet byte source lets a forced reset complete. -/
theorem forceReset_of_quiet {s : State} (h : s.env.quiet = true) : ∃ t, forceReset s = .ok t ∧ t.env.quiet = true :=
  rxRearm_of_quiet (s := s.toIdle.setCrc Config.crcSeed) h

end Sys2Proof.Machine
end

