-- ==== Sys2Proof/Laws/PerInstr.lean ====
section
/-! SUPPORT. Per-instruction statements: every instruction's word holds the bits its row of spec/opcode_table.json fixes. -/

namespace Sys2Proof.Laws

/-- The number of a byte list starts with its first byte. -/
theorem bytesToNat_request (a fc b2 b3 b4 b5 l h : Byte) :
    bytesToNat [a, fc, b2, b3, b4, b5, l, h] / 2 ^ 48 % 2 ^ 8 = fc.toNat := by
  have h0 := a.isLt; have h1 := fc.isLt; have h2 := b2.isLt; have h3 := b3.isLt
  have h4 := b4.isLt; have h5 := b5.isLt; have h6 := l.isLt; have h7 := h.isLt
  simp only [bytesToNat, List.length_cons, List.length_nil, Nat.reduceAdd, Nat.reducePow, Nat.mul_one, Nat.add_zero]
  omega

/-- The word of a request holds its function code at bits 55:48. -/
theorem request_fixed (i : Instr) (a fc l h : Byte) (p q : Word16) (e : encode i = encodeRequest a fc p q l h) (v : Nat)
    (hv : fc.toNat = v) : holdsBits (encodeWord i) [(55, 48, v)] = true := by
  simp only [holdsBits, encodeWord, e, encodeRequest, beBytes, List.all_cons, List.all_nil, Bool.and_true, beq_iff_eq,
    List.cons_append, List.nil_append]
  rw [← hv]
  exact bytesToNat_request a fc _ _ _ _ l h

namespace OpcodeRow

/-- The instruction's word holds its row's fixed bits (spec/opcode_table.json; spec/30_encoding.md rules R58, R61, R69). -/
def Statement (i : Instr) : Prop := holdsBits (encodeWord i) (fixedBits i) = true

theorem readHolding (a : Byte) (p q : Word16) (l h : Byte) : Statement (.readHolding a p q l h) :=
  request_fixed _ a 0x03#8 l h p q rfl _ rfl

theorem readInput (a : Byte) (p q : Word16) (l h : Byte) : Statement (.readInput a p q l h) :=
  request_fixed _ a 0x04#8 l h p q rfl _ rfl

theorem writeSingle (a : Byte) (p q : Word16) (l h : Byte) : Statement (.writeSingle a p q l h) :=
  request_fixed _ a 0x06#8 l h p q rfl _ rfl

theorem writeMultiple (a : Byte) (p q : Word16) (l h : Byte) : Statement (.writeMultiple a p q l h) :=
  request_fixed _ a 0x10#8 l h p q rfl _ rfl

theorem illegal (a fc : Byte) (p q : Word16) (l h : Byte) : Statement (.illegal a fc p q l h) := rfl

theorem openContext (addr : Byte) (cap : Nat) : Statement (.openContext addr cap) := by
  simp [Statement, holdsBits, encodeWord, encode, fixedBits]

theorem closeContext : Statement .closeContext := by
  simp [Statement, holdsBits, encodeWord, encode, fixedBits]

theorem deliver (now : Millis) (bytes : List Byte) : Statement (.deliver now bytes) := by
  simp [Statement, holdsBits, encodeWord, encode, fixedBits]

theorem markActivity (now : Millis) : Statement (.markActivity now) := by
  simp [Statement, holdsBits, encodeWord, encode, fixedBits]

theorem markError : Statement .markError := by
  simp [Statement, holdsBits, encodeWord, encode, fixedBits]

theorem tick (now : Millis) : Statement (.tick now) := by
  simp [Statement, holdsBits, encodeWord, encode, fixedBits]

theorem reservedHostop (x : Bool) (args : HostArgs) : Statement (.reservedHostop x args) := by
  cases x <;> simp [Statement, holdsBits, encodeWord, encode, fixedBits]

end OpcodeRow

end Sys2Proof.Laws
end

