-- ==== Sys2Proof/Laws/Requests.lean ====
section
/-! SUPPORT. What the register loops of a request can do, said once. -/

namespace Sys2Proof.Machine

/-- What a completed run of RegReads does: as many values as registers, one event each in ascending order, the block untouched. -/
theorem readRegs_ok {start : Word16} {n i : Nat} {s t : State} {vs : List Word16} (h : readRegs start n i s = .ok (vs, t)) :
    vs.length = n ∧ BlockUnchanged s t ∧ t.trace = s.trace ++ readEvents start i vs ∧
      t.env.readReplies = s.env.readReplies.drop n ∧ t.env.writeReplies = s.env.writeReplies ∧
      t.env.sentReplies = s.env.sentReplies ∧ t.env.rearmReplies = s.env.rearmReplies := by
  induction n generalizing i s vs with
  | zero => cases h; exact ⟨rfl, .refl _, by simp [readEvents], rfl, rfl, rfl, rfl⟩
  | succ n ih =>
    unfold readRegs at h
    split at h
    · cases h
    · next v s1 e1 =>
      split at h
      · cases h
      · next vs' s2 e2 =>
        cases h
        obtain ⟨l, b, tr, r, w, d, a⟩ := ih e2
        obtain ⟨b1, tr1, r1, w1, d1, a1, -⟩ := regRead_ok e1
        refine ⟨by simp [l], b1.trans b, by simp [tr, tr1, readEvents], ?_, w.trans w1, d.trans d1, a.trans a1⟩
        rw [r, r1, List.drop_tail]

/-- A quiet store answers every RegRead of a request. -/
theorem readRegs_of_quiet {s : State} (h : s.env.quiet = true) (start : Word16) (n i : Nat) :
    ∃ vs t, readRegs start n i s = .ok (vs, t) ∧ t.env.quiet = true := by
  induction n generalizing i s with
  | zero => exact ⟨[], s, rfl, h⟩
  | succ n ih =>
    obtain ⟨v, s1, e1, q1⟩ := regRead_of_quiet h (regAddr start i)
    obtain ⟨vs, t, e2, q2⟩ := ih q1 (i + 1)
    exact ⟨v :: vs, t, by simp [readRegs, e1, e2], q2⟩

/-- Assembling a payload value changes nothing but the draw counter. -/
theorem payloadValue_ok {i : Nat} {s t : State} {v : Word16} (h : payloadValue i s = .ok (v, t)) :
    BlockUnchanged s t ∧ t.env = s.env ∧ t.trace = s.trace := by
  unfold payloadValue at h
  split at h
  · cases h
  · next hi s1 e1 =>
    split at h
    · cases h
    · next lo s2 e2 =>
      cases h
      rcases bufRead_ok e1 with rfl | rfl <;> rcases bufRead_ok e2 with rfl | rfl <;>
        exact ⟨⟨rfl, rfl, rfl, rfl, rfl, rfl, rfl⟩, rfl, rfl⟩

/-- What a completed run of RegWrites does: one event each in ascending order, the block untouched. -/
theorem writeRegs_ok {start : Word16} {n i : Nat} {s t : State} (h : writeRegs start n i s = .ok t) :
    BlockUnchanged s t ∧ (∃ ws, ws.length = n ∧ t.trace = s.trace ++ writeEvents start i ws) ∧
      t.env.readReplies = s.env.readReplies ∧ t.env.writeReplies = s.env.writeReplies.drop n ∧
      t.env.sentReplies = s.env.sentReplies ∧ t.env.rearmReplies = s.env.rearmReplies := by
  induction n generalizing i s with
  | zero => cases h; exact ⟨.refl _, ⟨[], rfl, by simp [writeEvents]⟩, rfl, rfl, rfl, rfl⟩
  | succ n ih =>
    unfold writeRegs at h
    split at h
    · cases h
    · next v s1 e1 =>
      split at h
      · cases h
      · next s2 e2 =>
        obtain ⟨b, ⟨ws, l, tr⟩, r, w, d, a⟩ := ih h
        obtain ⟨b1, g1, tr1⟩ := payloadValue_ok e1
        obtain ⟨b2, stored, tr2, r2, w2, d2, a2, -⟩ := regWrite_ok e2
        refine ⟨(b1.trans b2).trans b, ⟨(v, stored) :: ws, by simp [l], by simp [tr, tr2, tr1, writeEvents]⟩,
          by rw [r, r2, g1], ?_, by rw [d, d2, g1], by rw [a, a2, g1]⟩
        rw [w, w2, g1, List.drop_tail]

/-- A payload value whose bytes lie inside the buffer is assembled. -/
theorem payloadValue_of_inside {i : Nat} {s : State} (h : 8 + 2 * i < s.ctx.bufCap) : ∃ v t, payloadValue i s = .ok (v, t) := by
  have inside : ∀ (k : Nat) (u : State), k < u.ctx.bufCap → ∃ b w, bufRead k u = .ok (b, w) := fun k u hk => by
    obtain ⟨-, e⟩ | ⟨-, -, e⟩ | ⟨-, hc, -⟩ := bufRead_cases k u
    · exact ⟨_, _, e⟩
    · exact ⟨_, _, e⟩
    · exact absurd hk (not_lt.2 hc)
  obtain ⟨hi, s1, e1⟩ := inside (7 + 2 * i) s (by omega)
  have hc : s1.ctx = s.ctx := by rcases bufRead_ok e1 with rfl | rfl <;> rfl
  obtain ⟨lo, s2, e2⟩ := inside (8 + 2 * i) s1 (by rw [hc]; exact h)
  exact ⟨be16 hi lo, s2, by simp only [payloadValue, e1, e2]⟩

/-- A quiet store stores every register of a request whose payload lies inside the buffer. -/
theorem writeRegs_of_quiet {s : State} (h : s.env.quiet = true) (start : Word16) (n i : Nat) (hc : 6 + 2 * (i + n) < s.ctx.bufCap) :
    ∃ t, writeRegs start n i s = .ok t ∧ t.env.quiet = true := by
  induction n generalizing i s with
  | zero => exact ⟨s, rfl, h⟩
  | succ n ih =>
    obtain ⟨v, s1, e1⟩ := payloadValue_of_inside (i := i) (s := s) (by omega)
    obtain ⟨b1, g1, -⟩ := payloadValue_ok e1
    obtain ⟨s2, e2, q2⟩ := regWrite_of_quiet (s := s1) (by rw [g1]; exact h) (regAddr start i) v
    obtain ⟨b2, -⟩ := regWrite_ok e2
    obtain ⟨t, e3, q3⟩ := ih q2 (i + 1) (by rw [b2.ctx, b1.ctx]; omega)
    exact ⟨t, by simp only [writeRegs, e1, e2, e3], q3⟩

/-- A request that completes leaves the block alone. -/
theorem readRequest_next {fc : Byte} {start count : Word16} {s t : State} (h : readRequest fc start count s = .next t) :
    BlockUnchanged s t := by
  unfold readRequest at h
  split at h
  · split at h
    · cases h
    · next e => exact (readRegs_ok e).2.1.trans (send_next h).1
  · exact (send_next h).1

theorem execWriteSingle_next {address value : Word16} {s t : State} (h : execWriteSingle address value s = .next t) :
    BlockUnchanged s t := by
  unfold execWriteSingle at h
  split at h
  · cases h
  · next e => exact (regWrite_ok e).1.trans (send_next h).1

theorem execWriteMultiple_next {start count : Word16} {byteCount : Byte} {s t : State}
    (h : execWriteMultiple start count byteCount s = .next t) : BlockUnchanged s t := by
  unfold execWriteMultiple at h
  split at h
  · split at h
    · cases h
    · next e => exact (writeRegs_ok e).1.trans (send_next h).1
  · exact (send_next h).1

/-- A dispatched frame that completes leaves the block alone. -/
theorem dispatchFrame_next {f : Frame} {s t : State} (h : dispatchFrame f s = .next t) : BlockUnchanged s t := by
  unfold dispatchFrame at h
  split at h
  · exact readRequest_next h
  · split at h
    · exact readRequest_next h
    · split at h
      · exact execWriteSingle_next h
      · split at h
        · exact execWriteMultiple_next h
        · exact (send_next h).1

end Sys2Proof.Machine
end

