-- ==== Sys2Proof/Tests/Slice0.lean ====
section
/-! SUPPORT. Tests with expected results from spec/95_test_vectors.md and the spec's encodings, and a witness for the hypotheses of every statement. -/

namespace Sys2Proof.Tests

open Sys2Proof Sys2Proof.Machine

/-! ### Builders -/

/-- The context opened at an address with a capacity, with the reference store of 95 section 1 and a sink that sends everything. -/
def opened (addr : Byte) (cap : Nat) : State :=
  { State.reset with
    ctx := configured State.reset.ctx addr cap
    env := { State.reset.env with
      sentReplies := [.answers 300, .answers 300]
      store := (List.range 20).map fun k => (40001 + k, BitVec.ofNat 16 (20 - k)) } }

/-- The context opened at 0x01 that holds the given bytes in RECEIVING. -/
def holding (bytes : List Byte) (cap : Nat) : State :=
  { opened 0x01#8 cap with
    ctx := { (opened 0x01#8 cap).ctx with asm := .receiving, len := bytes.length, buf := writeBytes [] 0 bytes } }

/-- The events of an outcome that is a next state. -/
def traceOf : Result → List PortEvent
  | .next t => t.trace
  | .fault (.reentrant t) => t.trace
  | .fault (.bufOverread _ t) => t.trace
  | .refused _ => []

/-- The recovery state of an outcome, as act/err/win/forced. -/
def supOf : Result → List Nat
  | .next t => [t.sup.lastAct.toNat, t.sup.errCnt.toNat, t.sup.winStart.toNat, t.sup.lastForced.toNat]
  | _ => []

/-- The assembler of an outcome, as state, length, accumulator. -/
def asmOf : Result → Option (AsmState × Nat × Word16)
  | .next t => some (t.ctx.asm, t.ctx.len, t.ctx.crc)
  | .fault (.bufOverread _ t) => some (t.ctx.asm, t.ctx.len, t.ctx.crc)
  | _ => none

/-- Is the outcome a next state? -/
def completes : Result → Bool
  | .next _ => true
  | _ => false

/-- The frame of eight bytes written as a 64-bit number. -/
def wordFrame (w : Nat) : List Byte := bytesOfWord w

/-! ### Well-formedness -/

/-- R61: an ILLEGAL with a handled function code is no instruction. -/
theorem test_illegal_with_handled_code_refused : wellFormed (.illegal 1 0x06#8 0 0 0 0) = false := by decide

theorem test_illegal_with_other_code_accepted : wellFormed (.illegal 1 0x05#8 0 0 0 0) = true := by decide

/-! ### Decoding: words written out from R58, R61, R69 -/

/-- 00000001 00000011 0000000000000000 0000000000000101 10000101 11001001. -/
theorem test_decode_read_holding :
    decodeFrame [0b00000001#8, 0b00000011#8, 0b00000000#8, 0b00000000#8, 0b00000000#8, 0b00000101#8, 0b10000101#8, 0b11001001#8]
      = .ok (.readHolding 1#8 0#16 5#16 0x85#8 0xC9#8) := by decide

theorem test_decode_read_input :
    decodeFrame [0b00000001#8, 0b00000100#8, 0b00010010#8, 0b00110100#8, 0b00000000#8, 0b00000001#8, 0b00000000#8, 0b11111111#8]
      = .ok (.readInput 1#8 0x1234#16 1#16 0#8 0xFF#8) := by decide

theorem test_decode_write_single :
    decodeFrame [0b00000001#8, 0b00000110#8, 0b00000000#8, 0b00000101#8, 0b00000100#8, 0b11010010#8, 0b00011011#8, 0b01010110#8]
      = .ok (.writeSingle 1#8 5#16 1234#16 0x1B#8 0x56#8) := by decide

theorem test_decode_write_multiple :
    decodeFrame [0b00000001#8, 0b00010000#8, 0b00001000#8, 0b00010000#8, 0b00000000#8, 0b00000001#8, 0b00000010#8, 0b01101100#8]
      = .ok (.writeMultiple 1#8 0x0810#16 1#16 0x02#8 0x6C#8) := by decide

theorem test_decode_illegal :
    decodeFrame [0b00000001#8, 0b10000011#8, 0b00000000#8, 0b00000000#8, 0b00000000#8, 0b00000001#8, 0b10000101#8, 0b11010100#8]
      = .ok (.illegal 1#8 0x83#8 0#16 1#16 0x85#8 0xD4#8) := by decide

theorem test_decode_open : decodeHost ⟨0b000#3, .config 7#8 9⟩ = .ok (.openContext 7#8 9) := by decide
theorem test_decode_close : decodeHost ⟨0b001#3, .noArgs⟩ = .ok .closeContext := by decide
theorem test_decode_deliver : decodeHost ⟨0b010#3, .chunk 5#32 [1#8]⟩ = .ok (.deliver 5#32 [1#8]) := by decide
theorem test_decode_mark_activity : decodeHost ⟨0b011#3, .time 5#32⟩ = .ok (.markActivity 5#32) := by decide
theorem test_decode_mark_error : decodeHost ⟨0b100#3, .noArgs⟩ = .ok .markError := by decide
theorem test_decode_tick : decodeHost ⟨0b101#3, .time 5#32⟩ = .ok (.tick 5#32) := by decide
theorem test_decode_reserved : decodeHost ⟨0b110#3, .time 5#32⟩ = .ok (.reservedHostop false (.time 5#32)) := by decide
theorem test_decode_seven_bytes_refused : decodeFrame [1#8, 3#8, 0#8, 0#8, 0#8, 5#8, 0x85#8] = .error (.frameLength 7) := by decide
theorem test_decode_ill_typed_refused : decodeHost ⟨0b101#3, .noArgs⟩ = .error (.illTyped 0b101#3) := by decide

/-! ### The CRC engine (95 section 3.1) -/

theorem test_crc_update_vectors :
    [crc16Update 0xFFFF#16 0x00#8, crc16Update 0xFFFF#16 0x01#8, crc16Update 0xFFFF#16 0x11#8, crc16Update 0xFFFF#16 0xA5#8,
      crc16Update 0xA001#16 0x00#8] = [0x40BF#16, 0x807E#16, 0x4C7F#16, 0x3B7F#16, 0xC061#16] := by decide +kernel

theorem test_crc_of_request : crc16 [0x01#8, 0x03#8, 0x00#8, 0x00#8, 0x00#8, 0x05#8] = 0xC985#16 := by decide +kernel

/-! ### Requests (95 sections 3.3 to 3.7) -/

/-- P1's reply, in the one DELIVER that holds the frame (E2). -/
theorem test_deliver_read_holding :
    traceOf (execDeliver 100#32 (wordFrame 0x01030000000585C9) (opened 0x01#8 8)) =
      [.regRead 40001#32 20#16, .regRead 40002#32 19#16, .regRead 40003#32 18#16, .regRead 40004#32 17#16, .regRead 40005#32 16#16,
       .transmit [0x01#8, 0x03#8, 0x0A#8, 0x00#8, 0x14#8, 0x00#8, 0x13#8, 0x00#8, 0x12#8, 0x00#8, 0x11#8, 0x00#8, 0x10#8, 0x10#8, 0xBD#8] 15,
       .rxRearm] := by decide +kernel

/-- E3: count 126. -/
theorem test_read_holding_count_126 :
    traceOf (execReadHolding 0#16 126#16 (opened 0x01#8 8)) = [.transmit [0x01#8, 0x83#8, 0x03#8, 0x01#8, 0x31#8] 5] := by decide +kernel

/-- Section 3.3: FC4 answers with 0x04. -/
theorem test_read_input_reply :
    traceOf (execReadInput 0#16 1#16 (opened 0x01#8 8)) =
      [.regRead 40001#32 20#16, .transmit [0x01#8, 0x04#8, 0x02#8, 0x00#8, 0x14#8, 0xB9#8, 0x3F#8] 7] := by decide +kernel

/-- E4, with a store that clamps the value: the echo is the request. -/
theorem test_write_single_reply :
    traceOf (execWriteSingle 5#16 1234#16
        { opened 0x01#8 8 with env := { (opened 0x01#8 8).env with writeReplies := [.answers 100#16] } }) =
      [.regWrite 40006#32 1234#16 100#16, .transmit [0x01#8, 0x06#8, 0x00#8, 0x05#8, 0x04#8, 0xD2#8, 0x1B#8, 0x56#8] 8] := by
  decide +kernel

/-- R38: after a read of 40021, outside the map, nothing is known of the store. -/
theorem test_read_outside_the_map :
    (match execReadInput 20#16 1#16 (opened 0x01#8 8) with
      | .next t => t.env.store == []
      | _ => false) = true := by decide

/-- Section 3.5: byte count 0x01 is not 2. -/
theorem test_write_multiple_wrong_byte_count :
    traceOf (execWriteMultiple 0#16 1#16 0x01#8 (opened 0x01#8 8)) = [.transmit [0x01#8, 0x90#8, 0x03#8, 0x0C#8, 0x01#8] 5] := by
  decide +kernel

/-- Section 3.5, P5 variant a: the overread faults before any RegWrite, in PROCESSING with length 8. -/
theorem test_write_multiple_overread :
    (traceOf (execDeliver 410#32 (wordFrame 0x011008100001026C) (opened 0x01#8 8)),
      asmOf (execDeliver 410#32 (wordFrame 0x011008100001026C) (opened 0x01#8 8))) = ([], some (.processing, 8, 0x0000#16)) := by
  decide +kernel

/-- Section 3.6: bit 7 already set. -/
theorem test_illegal_reply :
    traceOf (execIllegal 0x83#8 (opened 0x01#8 8)) = [.transmit [0x01#8, 0x83#8, 0x01#8, 0x80#8, 0xF0#8] 5] := by decide +kernel

/-! ### The frame assembler (95 sections 2 and 3.2) -/

/-- E5: swapped CRC bytes. -/
theorem test_deliver_mismatch :
    (traceOf (execDeliver 100#32 (wordFrame 0x010300000005C985) (opened 0x01#8 8)),
      (asmOf (execDeliver 100#32 (wordFrame 0x010300000005C985) (opened 0x01#8 8))).map fun a => (a.1, a.2.1)) =
      ([.rxRearm], some (.idle, 0)) := by decide +kernel

/-- Section 3.2, byte by byte: 11 skipped, then 01 03 01 buffered. -/
theorem test_deliver_bytes :
    asmOf (execDeliver 5#32 [0x11#8, 0x01#8, 0x03#8, 0x01#8] (opened 0x01#8 8)) = some (.receiving, 3, 0xE895#16) := by decide +kernel

/-! ### The supervisor (95 section 3.8) -/

/-- The open reference configuration with a given recovery state. -/
def withSup (act err win forced : Nat) : State :=
  (opened 0x01#8 8).setSup ⟨BitVec.ofNat 32 act, BitVec.ofNat 32 err, BitVec.ofNat 32 win, BitVec.ofNat 32 forced⟩

/-- S2: the window step fires before the threshold test. S7: the inactivity timeout across the wrap. -/
theorem test_tick_window_first : supOf (execTick 5000#32 (withSup 4000 3 0 0)) = [4000, 0, 5000, 0] := by decide

theorem test_tick_across_the_wrap :
    supOf (execTick 0x9C4#32 (withSup 0xFFFFFFFF 0 0x9C3 0xFFFFF000)) = [0x9C4, 0, 0x9C3, 0x9C4] := by decide

/-- R121's example: 4500 - 2000 is not more than 2500. -/
theorem test_mark_activity_then_tick :
    traceOf (andThen (execMarkActivity 2000#32 (withSup 0 0 0 0)) (execTick 4500#32)) = [] := by decide

/-- S9: saturation. -/
theorem test_mark_error_saturates : supOf (execMarkError (withSup 0 0xFFFFFFFF 0 0)) = [0, 0xFFFFFFFF, 0, 0] := by decide

/-! ### Host operations (95 section 3.9) -/

/-- OPEN while open: FAIL_NO_SLOT and the address stays. -/
theorem test_open_while_open :
    execOpen 0x02#8 8 (opened 0x01#8 8) = .next ((opened 0x01#8 8).emit (.openStatus .failNoSlot)) := rfl

theorem test_open_with_small_capacity_refused :
    execOpen 0x01#8 7 State.reset = .refused (.badCap { State.reset with refusal := some .badCap }) := rfl

/-- CLOSE then a DELIVER: one re-arm, no register read, no transmit. -/
theorem test_close_then_deliver :
    traceOf (andThen (execClose (opened 0x01#8 8)) (execDeliver 50#32 (wordFrame 0x01030000000585C9))) = [.rxRearm] := by decide +kernel

/-! ### The step -/

/-- An OPEN in the inbox is what the first step runs. -/
theorem test_step_runs_inbox :
    (match step { State.reset with inbox := [⟨0b000#3, .config 0x01#8 8⟩] } with
      | .next t => t.ctx.isOpen && t.inbox.isEmpty
      | _ => false) = true := by decide

/-- A placed WRITE_SINGLE is dispatched by the first step after reset. -/
theorem test_step_runs_placed_request :
    completes (step (State.reset.withFetchWord 64 0x0106000504D21B56)) = true := by decide +kernel

/-! ### Witnesses: the hypotheses of each statement, met together, each clause at a boundary -/

theorem witness_EncodeUndoesDecode : decode (.host ⟨0b111#3, .noArgs⟩) = .ok (.reservedHostop true .noArgs) := by decide

theorem witness_DecodeUndoesEncode : wellFormed (.illegal 1 0xFF#8 0 0 0 0) = true := by decide

theorem witness_FunctionCodeSelectsTheHandler :
    decodeFrame (Frame.bytes ⟨1, 0x10#8, 0, 0, 0, 1, 2, 0⟩) = .ok (.writeMultiple 1 0 1 2 0) ∧
    (Frame.mk 1 0x11#8 0 0 0 1 2 0).fc ≠ 0x10#8 := by decide

theorem witness_DecodeRejectsByName : ([] : List Byte).length ≠ 8 ∧ (wordFrame 0).length = 8 ∧ (0b000#3 : BitVec 3).toNat < 6 ∧
    (0b101#3 : BitVec 3).toNat < 6 := by decide

/-- ReadHoldingAnswersItsRegisters, ReadInputAnswersItsRegisters: counts 1, 125, 0 and 126. -/
theorem witness_ReadAnswered : (opened 0x01#8 8).env.quiet = true ∧ 1 ≤ (1#16).toNat ∧ (125#16).toNat ≤ 125 ∧ (0#16).toNat = 0 ∧
    125 < (126#16).toNat := by decide

theorem witness_ReadReplyCarriesTheAnswersInOrder :
    let s := { opened 0x01#8 8 with env := { (opened 0x01#8 8).env with readReplies := [.answers 7#16, .answers 8#16, .answers 9#16] } }
    s.env.quiet = true ∧ [7#16, 8#16].length = (2#16).toNat ∧ 1 ≤ (2#16).toNat ∧ (2#16).toNat ≤ 125 ∧
      s.env.readReplies = [7#16, 8#16].map .answers ++ [.answers 9#16] := by decide

theorem witness_ReadOfKnownRegistersAnswersThem :
    (opened 0x01#8 8).env.quiet = true ∧ (20#16).toNat ≤ 125 ∧ (opened 0x01#8 8).env.readReplies = [] ∧
      registersKnown (opened 0x01#8 8) 0#16 (20#16).toNat = true := by decide +kernel

/-- Counts 1 and 123 with the least capacity that holds the payload. -/
theorem witness_WriteMultipleWritesItsRegisters :
    (opened 0x01#8 9).env.quiet = true ∧ (0x02#8).toNat = 2 * (1#16).toNat ∧ 6 + 2 * (1#16).toNat < (opened 0x01#8 9).ctx.bufCap ∧
    (opened 0x01#8 253).env.quiet = true ∧ (0xF6#8).toNat = 2 * (123#16).toNat ∧
      6 + 2 * (123#16).toNat < (opened 0x01#8 253).ctx.bufCap := by decide

/-- Capacities 8 and 252, the smallest and the largest that fault. -/
theorem witness_WriteMultipleFaultsPastTheBuffer :
    (opened 0x01#8 8).env.quiet = true ∧ (0x02#8).toNat = 2 * (1#16).toNat ∧ 8 ≤ (opened 0x01#8 8).ctx.bufCap ∧
      (opened 0x01#8 8).ctx.bufCap ≤ 6 + 2 * (1#16).toNat ∧
    (opened 0x01#8 252).env.quiet = true ∧ (0xF6#8).toNat = 2 * (123#16).toNat ∧
      (opened 0x01#8 252).ctx.bufCap ≤ 6 + 2 * (123#16).toNat := by decide

theorem witness_WriteMultipleRejectsItsOperands :
    (0#16).toNat = 0 ∧ 123 < (124#16).toNat ∧ (0xF8#8).toNat = 2 * (124#16).toNat ∧ (0x01#8).toNat ≠ 2 * (1#16).toNat := by decide

theorem witness_IllegalFunctionAnswersExceptionOne :
    (0x05#8 : Byte) ≠ 0x03#8 ∧ (0x05#8 : Byte) ≠ 0x04#8 ∧ (0x05#8 : Byte) ≠ 0x06#8 ∧ (0x05#8 : Byte) ≠ 0x10#8 ∧
      (opened 0x01#8 8).env.quiet = true ∧ 0x80 ≤ (0x80#8).toNat := by decide

/-- EveryRequestSendsOneValidReply and RequestsUseOnePortAndLeaveTheBlockAlone: one request of each port class completes. -/
theorem witness_requests_complete :
    isRequest (.readHolding 1 0 1 0 0) = true ∧ completes (exec (.readHolding 1 0 1 0 0) (opened 0x01#8 8)) = true ∧
    isRequest (.readInput 1 0 1 0 0) = true ∧ completes (exec (.readInput 1 0 1 0 0) (opened 0x01#8 8)) = true ∧
    isRequest (.writeSingle 1 0 1 0 0) = true ∧ completes (exec (.writeSingle 1 0 1 0 0) (opened 0x01#8 8)) = true ∧
    isRequest (.writeMultiple 1 0 1 2 0) = true ∧ completes (exec (.writeMultiple 1 0 1 2 0) (opened 0x01#8 9)) = true ∧
    isRequest (.illegal 1 5 0 0 0 0) = true ∧ completes (exec (.illegal 1 5 0 0 0 0) (opened 0x01#8 8)) = true := by decide

theorem witness_WriteSingleReplyIsTheRequest :
    let f : Frame := ⟨0x01#8, 0x06#8, 0x00#8, 0x05#8, 0x04#8, 0xD2#8, 0x1B#8, 0x56#8⟩
    (opened 0x01#8 8).env.quiet = true ∧ f.addr = (opened 0x01#8 8).ctx.devAddr ∧
      crc16 [f.addr, f.fc, f.p0, f.p1, f.p2, f.p3] = le16 f.crcLo f.crcHi := by decide +kernel

theorem witness_WrittenRegisterIsReadBack :
    (opened 0x01#8 8).env.quiet = true ∧ (opened 0x01#8 8).env.readReplies = [] ∧ (opened 0x01#8 8).env.writeReplies = [] ∧
      registersKnown (opened 0x01#8 8) 19#16 1 = true ∧ (40001 : Nat) ≠ (regAddr 19#16 0).toNat := by decide +kernel

/-- ReferenceStoreKeepsItsAddresses: the last register 40020, and the first address outside, 40021. -/
theorem witness_ReferenceStoreKeepsItsAddresses :
    isReferenceStore (opened 0x01#8 11).env.store = true ∧ (19#16).toNat + (1#16).toNat ≤ 20 ∧ (19#16).toNat < 20 ∧
      20 < (19#16).toNat + (2#16).toNat ∧ 20 ≤ (20#16).toNat ∧ (0x04#8).toNat = 2 * (2#16).toNat ∧
      ([.readHolding 1 19 1 0 0, .readInput 1 19 2 0 0, .readHolding 1 0 126 0 0, .writeSingle 1 19 1 0 0, .writeSingle 1 20 1 0 0,
        .writeMultiple 1 19 1 2 0, .writeMultiple 1 19 2 4 0, .writeMultiple 1 19 2 5 0].all fun i =>
          completes (exec i (opened 0x01#8 11))) = true := by decide +kernel

theorem witness_ValidateDispatchesOnAMatchOnly :
    frameCrcOk (holding (wordFrame 0x01030000000585C9) 8) = true ∧ frameCrcOk (holding (wordFrame 0x010300000005C985) 8) = false := by
  decide +kernel

theorem witness_ClosedContextDropsTheChunk :
    State.reset.busy = false ∧ State.reset.env.quiet = true ∧ State.reset.ctx.isOpen = false ∧ [0x01#8] ≠ [] := by decide

/-- OneByteStepsTheAssembler: its seven cases, RECEIVING at lengths 1, 6 and 7. -/
theorem witness_OneByteStepsTheAssembler :
    (opened 0x01#8 8).busy = false ∧ (opened 0x01#8 8).env.quiet = true ∧ (opened 0x01#8 8).ctx.isOpen = true ∧
    (opened 0x01#8 8).ctx.asm = .idle ∧ (0x01#8 : Byte) = (opened 0x01#8 8).ctx.devAddr ∧ (0x11#8 : Byte) ≠ (opened 0x01#8 8).ctx.devAddr ∧
    (holding [1] 8).ctx.asm = .receiving ∧ (holding [1] 8).ctx.len < (holding [1] 8).ctx.bufCap ∧ (holding [1] 8).ctx.len ≠ 7 ∧
    (holding [1, 2, 3, 4, 5, 6] 8).ctx.len ≠ 7 ∧ (holding [1, 2, 3, 4, 5, 6, 7] 8).ctx.len = 7 ∧
    (holding [1, 2, 3, 4, 5, 6, 7, 8] 8).ctx.bufCap ≤ (holding [1, 2, 3, 4, 5, 6, 7, 8] 8).ctx.len ∧
    ((opened 0x01#8 8).setAsm .illegal).ctx.asm = .illegal ∧ ((opened 0x01#8 8).setAsm .processing).ctx.asm = .processing ∧
    ((opened 0x01#8 8).setAsm .processing).busy = false := by decide

theorem witness_OneByteCompletesAMismatch :
    let s := holding [0x01#8, 0x03#8, 0x00#8, 0x00#8, 0x00#8, 0x05#8, 0xC9#8] 8
    s.ctx.len = 7 ∧ 8 ≤ s.ctx.bufCap ∧
      crc16 [bufByte s 0, bufByte s 1, bufByte s 2, bufByte s 3, bufByte s 4, bufByte s 5] ≠ le16 (bufByte s 6) 0x85#8 := by
  decide +kernel

theorem witness_StreamWithoutTheAddressIsSkipped :
    (opened 0x01#8 8).ctx.asm = .idle ∧ wordFrame 0x1103006B00037687 ≠ [] ∧
      ∀ b ∈ wordFrame 0x1103006B00037687, b ≠ (opened 0x01#8 8).ctx.devAddr := by decide

theorem witness_ShortRequestIsHeld :
    (opened 0x01#8 8).ctx.asm = .idle ∧ 8 ≤ (opened 0x01#8 8).ctx.bufCap ∧ ([3, 0, 0, 0, 5, 0x85] : List Byte).length ≤ 6 ∧
      ([] : List Byte).length ≤ 6 := by decide

theorem witness_MismatchedFrameIsAbsorbed :
    let f : Frame := ⟨0x01#8, 0x03#8, 0x00#8, 0x00#8, 0x00#8, 0x05#8, 0xC9#8, 0x85#8⟩
    f.addr = (opened 0x01#8 8).ctx.devAddr ∧ crc16 [f.addr, f.fc, f.p0, f.p1, f.p2, f.p3] ≠ le16 f.crcLo f.crcHi := by decide +kernel

theorem witness_DeliveredFrameRunsItsInstruction :
    let f : Frame := ⟨0x01#8, 0x03#8, 0x00#8, 0x00#8, 0x00#8, 0x05#8, 0x85#8, 0xC9#8⟩
    (opened 0x01#8 8).busy = false ∧ (opened 0x01#8 8).ctx.isOpen = true ∧ (opened 0x01#8 8).ctx.asm = .idle ∧
      8 ≤ (opened 0x01#8 8).ctx.bufCap ∧ f.addr = (opened 0x01#8 8).ctx.devAddr ∧
      crc16 [f.addr, f.fc, f.p0, f.p1, f.p2, f.p3] = le16 f.crcLo f.crcHi ∧
      (opened 0x01#8 8).fault = none ∧ (opened 0x01#8 8).refusal = none := by decide +kernel

/-- SplittingAChunkChangesOnlyTheRearms, EveryDeliveredByteUpdatesTheAccumulator and DeliverLeavesTheRestAlone: a delivery that completes. -/
theorem witness_deliver_completes :
    (opened 0x01#8 8).busy = false ∧ (opened 0x01#8 8).env.rearmReplies = [] ∧ (opened 0x01#8 8).ctx.isOpen = true ∧
      completes (exec (.deliver 10#32 ([0x01#8, 0x03#8, 0x00#8] ++ [0x00#8, 0x00#8, 0x05#8, 0x85#8, 0xC9#8])) (opened 0x01#8 8)) = true := by
  decide +kernel

theorem witness_Inv_opened : Inv (opened 0x01#8 253) :=
  ⟨by decide, by decide, by decide, by decide +kernel, by decide, by decide, by decide, by decide⟩

theorem witness_DeliverCompletes :
    (opened 0x01#8 253).busy = false ∧ (opened 0x01#8 253).env.quiet = true ∧ 253 ≤ (opened 0x01#8 253).ctx.bufCap ∧
      (opened 0x01#8 253).ctx.asm = .idle ∧ ∀ b ∈ wordFrame 0x01030000000585C9, b ≠ 0x10#8 := by decide

theorem witness_ElapsedTimeSurvivesTheWrap : (2 ^ 32 - 1 : Nat) ≤ 2 ^ 32 + 2500 ∧ (2 ^ 32 + 2500) - (2 ^ 32 - 1) < (2 ^ 32 : Nat) := by decide

/-- TickAppliesThePolicy: the window at 5000 and 4999; threshold 3; preventive 10001; inactivity 2501; none (S1 to S5). -/
theorem witness_TickAppliesThePolicy :
    (withSup 0 0 0 0).busy = false ∧ (withSup 0 0 0 0).env.quiet = true ∧
    5000 ≤ (5000#32 - (withSup 4000 3 0 0).sup.winStart).toNat ∧ (4999#32 - (withSup 4000 3 0 0).sup.winStart).toNat < 5000 ∧
    3 ≤ (withSup 4000 3 0 0).sup.errCnt.toNat ∧ (withSup 0 2 0 0).sup.errCnt.toNat < 3 ∧
    10000 < (10001#32 - (withSup 9000 0 10000 0).sup.lastForced).toNat ∧ (10000#32 - (withSup 9000 0 10000 0).sup.lastForced).toNat ≤ 10000 ∧
    2500 < (2501#32 - (withSup 0 0 0 0).sup.lastAct).toNat ∧ (2500#32 - (withSup 0 0 0 0).sup.lastAct).toNat ≤ 2500 := by decide

theorem witness_TickForcesAtMostOneReset :
    completes (exec (.tick 2501#32) (withSup 0 0 0 0)) = true ∧ completes (exec (.tick 2500#32) (withSup 0 0 0 0)) = true := by decide

theorem witness_InactivityResetDoesNotRetrigger :
    (withSup 0 2 0 0).sup.errCnt.toNat < 3 ∧ (2501#32 - (withSup 0 2 0 0).sup.lastForced).toNat ≤ 10000 ∧
      2500 < (2501#32 - (withSup 0 2 0 0).sup.lastAct).toNat ∧ (5001#32 - 2501#32 : Millis).toNat ≤ 2500 := by decide

theorem witness_ForcedResetIsIdempotent :
    forceReset (opened 0x01#8 8) = .ok ((opened 0x01#8 8).emit .rxRearm) ∧
      forceReset ((opened 0x01#8 8).emit .rxRearm) = .ok (((opened 0x01#8 8).emit .rxRearm).emit .rxRearm) := ⟨rfl, rfl⟩

theorem witness_OpenConfiguresAClosedContext :
    State.reset.busy = false ∧ State.reset.ctx.isOpen = false ∧ (opened 0x01#8 8).busy = false ∧ (opened 0x01#8 8).ctx.isOpen = true := by decide

/-- EmptyDeliveryChangesNothing, CloseClearsTheOpenFlag, MarkActivityWritesItsTimestamp, MarkErrorCountsAndSaturates, RefusalsOfTheSpec and
ExceptionReplyIsFiveBytes; RegisterAddressesNeverWrap at its bound. -/
theorem witness_not_busy : State.reset.busy = false ∧ (7 : Nat) < 8 ∧ State.reset.env.quiet = true ∧ (124 : Nat) ≤ 124 := by decide

theorem witness_EveryOperationFaultsWhenBusy :
    ((opened 0x01#8 8).setBusy true).busy = true ∧ isRequest .markError = false ∧ ∀ x args, Instr.markError ≠ .reservedHostop x args := by
  refine ⟨rfl, rfl, ?_⟩
  intro x args h
  cases h

/-- The first transaction and the second. -/
theorem witness_PartnerCallingBackFaults :
    ([.calls] : List (PartnerReply Word16)) = ([] : List Word16).map .answers ++ .calls :: [] ∧
      ([.answers 7#16, .calls] : List (PartnerReply Word16)) = [7#16].map .answers ++ .calls :: [] ∧
      ([] : List Word16).length < (1#16).toNat ∧ [7#16].length < (2#16).toNat ∧ (0x04#8).toNat = 2 * (2#16).toNat ∧
      8 + 2 * [7#16].length < (opened 0x01#8 11).ctx.bufCap := by decide

theorem witness_WriteMultipleReplyIsTheRequest :
    let f : Frame := ⟨0x01#8, 0x10#8, 0x08#8, 0x10#8, 0x00#8, 0x01#8, 0x02#8, 0x6C#8⟩
    (opened 0x01#8 9).env.quiet = true ∧ f.addr = (opened 0x01#8 9).ctx.devAddr ∧
      crc16 [f.addr, f.fc, f.p0, f.p1, f.p2, f.p3] = le16 f.crcLo f.crcHi ∧ (be16 f.p2 f.p3).toNat = 1 ∧
      f.crcLo.toNat = 2 * (be16 f.p2 f.p3).toNat ∧ 6 + 2 * (be16 f.p2 f.p3).toNat < (opened 0x01#8 9).ctx.bufCap := by decide +kernel

/-- SinkCallingBackFaults and ByteSourceCallingBackFaults: the same operation before partners that answer. -/
theorem witness_partners_that_answer :
    let s := { opened 0x01#8 8 with env := { (opened 0x01#8 8).env with sentReplies := [.calls], rearmReplies := [.calls] } }
    s.env.sentReplies = .calls :: [] ∧ s.env.rearmReplies = .calls :: [] ∧ isRequest (.illegal 1 5 0 0 0 0) = true ∧
      completes (exec (.illegal 1 5 0 0 0 0) { s with env := { s.env with sentReplies := [] } }) = true ∧
      completes (exec (.deliver 9#32 [1#8]) { s with env := { s.env with rearmReplies := [] } }) = true ∧
      completes (exec (.tick 2500#32) { s with env := { s.env with rearmReplies := [] } }) = true ∧
      completes (exec (.tick 2501#32) { s with env := { s.env with rearmReplies := [] } }) = true := by decide

/-- StepRunsTheDecodedInstruction: a call in the inbox, and a frame placed for dispatch. -/
theorem witness_StepRunsTheDecodedInstruction :
    let s := { State.reset with inbox := [⟨0b101#3, .time 5#32⟩] }
    let u := State.reset.withFetchWord 64 0x01030000000585C9
    s.fault = none ∧ s.refusal = none ∧ s.busy = false ∧ decode (.host ⟨0b101#3, .time 5#32⟩) = .ok (.tick 5#32) ∧
      u.fault = none ∧ u.refusal = none ∧ u.busy = true ∧ u.ctx.asm = .processing ∧
      decode (.frame [bufByte u 0, bufByte u 1, bufByte u 2, bufByte u 3, bufByte u 4, bufByte u 5, bufByte u 6, bufByte u 7]) =
        .ok (.readHolding 0x01#8 0#16 5#16 0x85#8 0xC9#8) := by decide

theorem witness_StepStopsOnMarksAndIdlesWithoutWork :
    ({ State.reset with fault := some (.bufOverread 8) } : State).fault = some (.bufOverread 8) ∧
      ({ State.reset with refusal := some .badCap } : State).fault = none ∧
      ({ State.reset with refusal := some (.illTyped 3#3) } : State).refusal = some (.illTyped 3#3) ∧
      State.reset.inbox = [] ∧ decode (.host ⟨0b101#3, .noArgs⟩) = .error (.illTyped 0b101#3) := by decide

theorem witness_PlacedWordIsRunNext :
    decodeTableWord 64 0 = some (.illegal 0 0 0 0 0 0) ∧ decodeTableWord 8 5 = some (.tick 0) := by decide

theorem witness_StepKeepsTheInvariant :
    completes (step State.reset) = true ∧ completes (step (State.reset.withFetchWord 64 0x0106000504D21B56)) = true := by decide +kernel

theorem witness_Inv_dispatching : Inv (State.reset.withFetchWord 64 0x0106000504D21B56) :=
  ⟨by decide, by decide, by decide, by decide, by decide, by decide, by decide, by decide⟩

end Sys2Proof.Tests
end

section
/-! Encoding and exception replies: a frame's eight bytes decode to its instruction, DISPATCH runs it (spec/30_encoding.md rule R61), and what a reply
does in a quiet environment (spec/43_response.md rules R66, R104, R105). -/

namespace Sys2Proof.Machine

/-! ### The instruction of a frame -/

/-- The eight bytes of a frame always decode (R58). -/
@[simp] theorem decodeFrame_bytes (f : Frame) : decodeFrame f.bytes = .ok f.toInstr := rfl

/-- DISPATCH and the decoder split on the function code alike, so DISPATCH runs the instruction decoded (R61, R92). -/
theorem dispatchFrame_eq_exec_toInstr (f : Frame) (s : State) : dispatchFrame f s = exec f.toInstr s := by
  unfold dispatchFrame Frame.toInstr
  split_ifs with h3 h4 h6 h16
  · rfl -- READ_HOLDING
  · rfl -- READ_INPUT
  · rfl -- WRITE_SINGLE
  · rfl -- WRITE_MULTIPLE
  · rfl -- ILLEGAL

/-! ### Replies in a quiet environment -/

/-- A reply sent from `u`, which `s` reached by the port events `events` alone, answers the request that began in `s` (R104). -/
theorem send_repliesAfter {s u : State} {events : List PortEvent} (quiet : u.env.quiet = true) (block : BlockUnchanged s u)
    (trace : u.trace = s.trace ++ events) (rearm : u.env.rearmReplies = s.env.rearmReplies) (fc : Byte) (payload : List Byte) :
    RepliesAfter events ([s.ctx.devAddr, fc] ++ payload) s (send fc payload u) := by
  obtain ⟨t, sent, -⟩ := send_of_quiet quiet fc payload
  obtain ⟨keeps, n, bound, emitted, env⟩ := send_next sent
  have bytes : replyBytes u fc payload = withCrc ([s.ctx.devAddr, fc] ++ payload) := by rw [replyBytes, block.ctx]
  have unchanged := block.trans keeps
  refine ⟨t, n, sent, ?_, ?_, unchanged, ?_, fun a => by rw [unchanged.ctx]⟩
  · simpa [bytes, withCrc, leBytes] using bound
  · rw [emitted, trace, bytes]; rfl
  · rw [env, rearm]

/-- SEND_EXCEPTION in a quiet environment is one reply: address, function code with bit 7 set, code (R105). -/
theorem sendException_repliesAfter {s : State} (quiet : s.env.quiet = true) (fc : Byte) (code : ExceptionCode) :
    RepliesAfter [] [s.ctx.devAddr, fc ||| 0x80#8, exceptionByte code] s (sendException fc code s) :=
  send_repliesAfter quiet (.refl s) (List.append_nil _).symm rfl (fc ||| Config.excFlag) [exceptionByte code]

/-- Bit 7 of a byte from 0x80 on is set already (R66). -/
theorem or_excFlag_of_le {b : Byte} (h : 0x80 ≤ b.toNat) : b ||| 0x80#8 = b := by
  have bit7 : b[7] = true := by simpa [BitVec.msb_eq_getLsbD_last, h] using BitVec.msb_eq_decide b
  have flag : (0x80#8 : Byte) = BitVec.twoPow 8 7 := rfl
  ext i hi
  rw [BitVec.getElem_or, flag, BitVec.getElem_twoPow]
  obtain rfl | ne := eq_or_ne i 7
  · simp [bit7]
  · simp [ne]

/-! ### The obligations -/

/-- Settles O5: a frame's bytes decode to `Frame.toInstr`, whose rows are those of R61, and DISPATCH runs that instruction. -/
theorem functionCodeSelectsTheHandler : Obligations.FunctionCodeSelectsTheHandler := by
  intro f s
  simp only [decodeFrame_bytes]
  refine ⟨fun h => ?_, fun h => ?_, fun h => ?_, fun h => ?_, fun h3 h4 h6 h16 => ?_, fun i h => ?_⟩
  · simp [Frame.toInstr, h, Frame.first, Frame.second]
  · simp [Frame.toInstr, h, Frame.first, Frame.second]
  · simp [Frame.toInstr, h, Frame.first, Frame.second]
  · simp [Frame.toInstr, h, Frame.first, Frame.second]
  · simp [Frame.toInstr, h3, h4, h6, h16, Frame.first, Frame.second]
  · cases h
    exact dispatchFrame_eq_exec_toInstr f s

/-- Settles O19: the reply of `SEND_EXCEPTION`, its length, and the corner of a function code with bit 7 set. -/
theorem exceptionReplyIsFiveBytes : Obligations.ExceptionReplyIsFiveBytes := fun fc code _ quiet =>
  ⟨sendException_repliesAfter quiet fc code, rfl, or_excFlag_of_le⟩

end Sys2Proof.Machine
end

section
/-! The CRC16 engine: `crc16` is computed byte by byte (spec/40_crc.md rules R73, R74). -/

namespace Sys2Proof.Machine

/-- The CRC of a buffer in two parts: the second part continues from the CRC of the first (R74). -/
theorem crc16_append (front back : List Byte) : crc16 (front ++ back) = back.foldl crc16Update (crc16 front) :=
  List.foldl_append

/-- Settles O1: `crc16` is defined as the fold from the seed 0xFFFF, and one more byte is a second part of length 1. -/
theorem crcIsTheFoldOfItsUpdate : Obligations.CrcIsTheFoldOfItsUpdate := fun bytes b =>
  ⟨rfl, crc16_append bytes [b]⟩

end Sys2Proof.Machine
end

section
/-! VALIDATE: the CRC of the buffered frame decides between dispatch and discard (spec/41_frame_assembler.md rules R83, R84). -/

namespace Sys2Proof.Machine

/-- The validator's test is the equation of the two CRCs (R83). -/
theorem frameCrcOk_iff {s : State} : frameCrcOk s = true ↔ crc16 (bufFrame s).body = (bufFrame s).rxCrc := beq_iff_eq

/-- On a match: PROCESSING, the frame's instruction, then the return to IDLE (R83, R84). -/
theorem validate_of_match {s : State} (crc : crc16 (bufFrame s).body = (bufFrame s).rxCrc) :
    validate s = andThen (exec (bufFrame s).toInstr (s.setAsm .processing)) fun t => .next (endDispatch t) := by
  rw [validate, if_pos (frameCrcOk_iff.mpr crc), dispatchFrame_eq_exec_toInstr]

/-- On a mismatch: nothing but the return to IDLE (R83, R84). -/
theorem validate_of_mismatch {s : State} (crc : crc16 (bufFrame s).body ≠ (bufFrame s).rxCrc) :
    validate s = .next (endDispatch s) := by
  rw [validate, if_neg (mt frameCrcOk_iff.mp crc)]

/-- Settles O26: a match and a mismatch are the two branches of VALIDATE, and DISPATCH runs the frame's instruction. -/
theorem validateDispatchesOnAMatchOnly : Obligations.ValidateDispatchesOnAMatchOnly := fun _ =>
  ⟨validate_of_match, validate_of_mismatch⟩

end Sys2Proof.Machine
end

section
/-! The read requests and ILLEGAL: their replies in a quiet environment (spec/42_dispatch.md rules R94, R98). -/

namespace Sys2Proof.Machine

/-! ### The read request, for either function code -/

theorem readCountLegal_iff {count : Word16} : readCountLegal count = true ↔ 1 ≤ count.toNat ∧ count.toNat ≤ 125 := by
  rw [readCountLegal, Bool.and_eq_true, decide_eq_true_iff, decide_eq_true_iff, Config.maxReadCount]

/-- With a legal count: the RegReads, then the reply that carries their answers (R94). -/
theorem readRequest_of_legal {start count : Word16} {s u : State} {vs : List Word16} (legal : readCountLegal count = true)
    (reads : readRegs start count.toNat 0 s = .ok (vs, u)) (fc : Byte) :
    readRequest fc start count s = send fc (BitVec.ofNat 8 (2 * count.toNat) :: vs.flatMap beBytes) u := by
  rw [readRequest, if_pos legal, reads]

/-- With any other count: exception 3, before any RegRead (R94). -/
theorem readRequest_of_not_legal {count : Word16} (illegal : ¬ readCountLegal count = true) (fc : Byte) (start : Word16) (s : State) :
    readRequest fc start count s = sendException fc .illegalDataValue s := if_neg illegal

/-- A quiet store answers the RegReads, so either count is answered by one reply (R94). -/
theorem readRequest_answered {s : State} (quiet : s.env.quiet = true) (fc : Byte) (start count : Word16) :
    ReadAnswered fc start count s (readRequest fc start count s) := by
  refine ⟨fun legal => ?_, fun outside => ?_⟩
  · obtain ⟨vs, u, reads, stillQuiet⟩ := readRegs_of_quiet quiet start count.toNat 0
    obtain ⟨length, block, trace, -, -, -, rearm⟩ := readRegs_ok reads
    rw [readRequest_of_legal (readCountLegal_iff.mpr legal) reads]
    exact ⟨vs, length, send_repliesAfter stillQuiet block trace rearm fc _⟩
  · have illegal : ¬ readCountLegal count = true := by rw [readCountLegal_iff]; omega
    rw [readRequest_of_not_legal illegal]
    exact sendException_repliesAfter quiet fc .illegalDataValue

/-! ### The obligations -/

/-- Settles O10: READ_HOLDING is the read request with function code 0x03. -/
theorem readHoldingAnswersItsRegisters : Obligations.ReadHoldingAnswersItsRegisters := fun _ start count _ _ _ =>
  ⟨rfl, fun quiet => readRequest_answered quiet 0x03#8 start count⟩

/-- Settles O18: the last row of the function-code table (R61), whose meaning is the exception reply 1. -/
theorem illegalFunctionAnswersExceptionOne : Obligations.IllegalFunctionAnswersExceptionOne := by
  intro a fc b2 b3 b4 b5 l h s not3 not4 not6 not16
  obtain ⟨-, -, -, -, otherCode, -⟩ := functionCodeSelectsTheHandler ⟨a, fc, b2, b3, b4, b5, l, h⟩ s
  exact ⟨otherCode not3 not4 not6 not16, fun quiet => sendException_repliesAfter quiet fc .illegalFunction⟩

end Sys2Proof.Machine
end

section
/-! Byte order, the decoder and the encoder (spec/20_memory.md rules R39, R40; spec/30_encoding.md). -/

namespace Sys2Proof

/-! ### Byte order -/

/-- A big-endian pair is the concatenation of its bytes (R8). -/
theorem be16_eq_append (a b : Byte) : be16 a b = a ++ b := by
  rw [be16, BitVec.append_def, BitVec.shiftLeftZeroExtend_eq]
  rfl

/-- The two byte orders differ by the order of the pair only (R39, R40). -/
theorem le16_eq_be16_swap (a b : Byte) : le16 a b = be16 b a := rfl

@[simp] theorem be16_toNat (a b : Byte) : (be16 a b).toNat = 256 * a.toNat + b.toNat := by
  rw [be16_eq_append, BitVec.toNat_append, ← Nat.shiftLeft_add_eq_or_of_lt b.isLt, Nat.shiftLeft_eq, Nat.mul_comm]

@[simp] theorem hi8_be16 (a b : Byte) : hi8 (be16 a b) = a := by
  rw [be16_eq_append, hi8, BitVec.extractLsb'_append_eq_left]

@[simp] theorem lo8_be16 (a b : Byte) : lo8 (be16 a b) = b := by
  rw [be16_eq_append, lo8, BitVec.extractLsb'_append_eq_right]

@[simp] theorem be16_hi8_lo8 (v : Word16) : be16 (hi8 v) (lo8 v) = v := by
  rw [be16_eq_append, hi8, lo8, BitVec.extractLsb'_append_extractLsb'_eq_extractLsb' (by rfl)]
  exact BitVec.extractLsb'_eq_self

@[simp] theorem le16_lo8_hi8 (v : Word16) : le16 (lo8 v) (hi8 v) = v := be16_hi8_lo8 v

/-- Settles O4. -/
theorem fieldsAreBigEndianAndTheCrcLittleEndian : Obligations.FieldsAreBigEndianAndTheCrcLittleEndian := fun a b v =>
  ⟨be16_toNat a b, by rw [le16_eq_be16_swap, be16_toNat, Nat.add_comm], rfl, rfl, be16_hi8_lo8 v, le16_lo8_hi8 v⟩

/-! ### Requests -/

/-- Eight bytes make the frame with these bytes, and no other list makes one (R58, R67). -/
theorem Frame.ofBytes_eq_some {bytes : List Byte} {f : Frame} : Frame.ofBytes bytes = some f ↔ bytes = f.bytes := by
  constructor
  · intro h
    unfold Frame.ofBytes at h
    split at h
    · cases h; rfl
    · cases h
  · rintro rfl; rfl

theorem Frame.exists_bytes_iff_length {bytes : List Byte} : (∃ f : Frame, bytes = f.bytes) ↔ bytes.length = 8 := by
  constructor
  · rintro ⟨f, rfl⟩; rfl
  · intro h
    match bytes, h with
    | [a, fc, p0, p1, p2, p3, l, h], _ => exact ⟨⟨a, fc, p0, p1, p2, p3, l, h⟩, rfl⟩

theorem decodeFrame_eq_ok {bytes : List Byte} {i : Instr} : decodeFrame bytes = .ok i ↔ ∃ f : Frame, bytes = f.bytes ∧ i = f.toInstr := by
  constructor
  · intro h
    unfold decodeFrame at h
    split at h
    · next f e => cases h; exact ⟨f, Frame.ofBytes_eq_some.mp e, rfl⟩
    · cases h
  · rintro ⟨f, rfl, rfl⟩; rfl

theorem decodeFrame_of_length_ne {bytes : List Byte} (h : bytes.length ≠ 8) :
    decodeFrame bytes = .error (.frameLength bytes.length) := by
  unfold decodeFrame
  split
  · next f e => exact absurd (Frame.exists_bytes_iff_length.mp ⟨f, Frame.ofBytes_eq_some.mp e⟩) h
  · rfl

/-- What a request encodes to decodes by its function code (R61). -/
theorem decode_encodeRequest (a fc l h : Byte) (p q : Word16) :
    decode (encodeRequest a fc p q l h) = .ok (Frame.toInstr ⟨a, fc, hi8 p, lo8 p, hi8 q, lo8 q, l, h⟩) := rfl

/-- The instruction of a frame keeps every bit of it, and is well-formed (R61, R62). -/
theorem encode_toInstr (f : Frame) : wellFormed f.toInstr = true ∧ encode f.toInstr = .frame f.bytes := by
  have fields : ∀ fc, encodeRequest f.addr fc f.first f.second f.crcLo f.crcHi =
      .frame [f.addr, fc, f.p0, f.p1, f.p2, f.p3, f.crcLo, f.crcHi] := by
    intro fc
    simp [encodeRequest, beBytes, Frame.first, Frame.second]
  unfold Frame.toInstr
  split_ifs with h3 h4 h6 h16
  · exact ⟨rfl, by rw [encode, fields, ← h3]; rfl⟩
  · exact ⟨rfl, by rw [encode, fields, ← h4]; rfl⟩
  · exact ⟨rfl, by rw [encode, fields, ← h6]; rfl⟩
  · exact ⟨rfl, by rw [encode, fields, ← h16]; rfl⟩
  · exact ⟨by simp [wellFormed, handledCodes, h3, h4, h6, h16], fields f.fc⟩

/-! ### Host calls -/

/-- A host call that decodes is the encoding of a well-formed instruction (R69, R70). -/
theorem encode_of_decodeHost {c : HostCall} {i : Instr} (h : decodeHost c = .ok i) : wellFormed i = true ∧ encode i = .host c := by
  obtain ⟨op, args⟩ := c
  cases args
  all_goals
    simp only [decodeHost] at h
    split_ifs at h
    -- an ill-typed call does not decode; in every other branch the test has fixed the selector
    all_goals (cases h; subst op; exact ⟨rfl, rfl⟩)

/-- A selector below 6 is neither reserved one (R70). -/
theorem selector_not_reserved {op : BitVec 3} (h : op.toNat < 6) : op ≠ 0b110#3 ∧ op ≠ 0b111#3 := by
  constructor <;> rintro rfl <;> simp at h

/-! ### The obligations -/

/-- Settles O6: a request's operands are read back from their bytes, and every host call is decoded by its own selector. -/
theorem decodeUndoesEncode : Obligations.DecodeUndoesEncode := by
  intro i wf
  cases i with
  | readHolding a p q l h => simp [encode, decode_encodeRequest, Frame.toInstr, Frame.first, Frame.second]
  | readInput a p q l h => simp [encode, decode_encodeRequest, Frame.toInstr, Frame.first, Frame.second]
  | writeSingle a p q l h => simp [encode, decode_encodeRequest, Frame.toInstr, Frame.first, Frame.second]
  | writeMultiple a p q l h => simp [encode, decode_encodeRequest, Frame.toInstr, Frame.first, Frame.second]
  | illegal a fc p q l h =>
    obtain ⟨h3, h4, h6, h16⟩ : fc ≠ 0x03#8 ∧ fc ≠ 0x04#8 ∧ fc ≠ 0x06#8 ∧ fc ≠ 0x10#8 := by
      simpa [wellFormed, handledCodes] using wf
    simp [encode, decode_encodeRequest, Frame.toInstr, Frame.first, Frame.second, h3, h4, h6, h16]
  | reservedHostop x args => cases x <;> rfl
  | openContext | closeContext | deliver | markActivity | markError | tick => rfl

/-- Settles O7: a frame through `encode_toInstr`, a host call through `encode_of_decodeHost`. -/
theorem encodeUndoesDecode : Obligations.EncodeUndoesDecode := by
  intro w i h
  cases w with
  | frame bytes =>
    obtain ⟨f, rfl, rfl⟩ := decodeFrame_eq_ok.mp h
    exact encode_toInstr f
  | host call => exact encode_of_decodeHost h

/-- Settles O8. -/
theorem decodeRejectsByName : Obligations.DecodeRejectsByName := by
  refine ⟨fun _ => decodeFrame_of_length_ne, fun bytes h => ?_, fun _ => rfl, fun _ => rfl, fun op addr cap h => ?_, fun op h => ?_,
    fun op now bytes h => ?_, fun op now h => ?_⟩
  · obtain ⟨f, rfl⟩ := Frame.exists_bytes_iff_length.mpr h
    exact ⟨f.toInstr, rfl⟩
  all_goals
    obtain ⟨h6, h7⟩ := selector_not_reserved h
    simp [decode, decodeHost, h6, h7]

/-- Settles O9: each word is a closed term the decoder evaluates. -/
theorem specWordsDecode : Obligations.SpecWordsDecode := by
  unfold Obligations.SpecWordsDecode
  decide

end Sys2Proof
end

section
/-! The CRC16 engine: the bit loop (spec/40_crc.md). -/

namespace Sys2Proof.Machine

theorem crcShift_of_even {c : Word16} (h : c.getLsbD 0 = false) : crcShift c = c >>> 1 := if_neg (by rw [h]; exact Bool.false_ne_true)

/-- The bit loop only shifts while the bits it shifts out are 0. -/
theorem crcShifts_of_low_zero (n : Nat) {c : Word16} (h : ∀ i < n, c.getLsbD i = false) : crcShifts n c = c >>> n := by
  induction n generalizing c with
  | zero => rfl
  | succ n ih =>
    rw [crcShifts, crcShift_of_even (h 0 n.succ_pos), ih, ← BitVec.shiftRight_add, Nat.add_comm]
    intro i hi
    rw [BitVec.getLsbD_ushiftRight, Nat.add_comm]
    exact h (i + 1) (Nat.succ_lt_succ hi)

/-- Feeding the accumulator its own low byte leaves its high byte. -/
theorem crc16Update_lo8 (c : Word16) : crc16Update c (lo8 c) = (hi8 c).setWidth 16 := by
  rw [crc16Update, crcShifts_of_low_zero]
  · ext i hi
    simp [lo8, hi8]
    grind
  · intro i hi
    simp [lo8]
    grind

/-- Feeding an accumulator below 256 its own byte leaves 0. -/
theorem crc16Update_self (b : Byte) : crc16Update (b.setWidth 16) b = 0#16 := by
  rw [crc16Update, BitVec.xor_self, crcShifts_of_low_zero] <;> simp

/-- Settles O2: the low byte of the CRC leaves its high byte, which leaves 0. -/
theorem crcOfAFrameWithItsCrcIsZero : Obligations.CrcOfAFrameWithItsCrcIsZero := by
  intro bytes
  rw [crc16_append]
  calc crc16Update (crc16Update (crc16 bytes) (lo8 (crc16 bytes))) (hi8 (crc16 bytes))
      = crc16Update ((hi8 (crc16 bytes)).setWidth 16) (hi8 (crc16 bytes)) := by rw [crc16Update_lo8]
    _ = 0#16 := crc16Update_self _

/-- Settles O3: the update xors its operands before the bit loop; the corner cases are evaluated. -/
theorem crcUpdateCornerCases : Obligations.CrcUpdateCornerCases := by
  refine ⟨fun c b => ?_, ?_⟩
  · rw [crc16Update, crc16Update, BitVec.setWidth_zero, BitVec.xor_zero]
  · decide +kernel

end Sys2Proof.Machine
end

section
/-! The host operations but for DELIVER and TICK (spec/44_supervisor.md section 4; spec/70_reset_and_hazards.md; spec/30_encoding.md rule R70). -/

namespace Sys2Proof.Machine

/-- Settles O43. -/
theorem markActivityWritesItsTimestamp : Obligations.MarkActivityWritesItsTimestamp := fun now _ notBusy =>
  unlessBusy_of_not_busy notBusy fun s => .next (s.touch now)

/-- The error counter counts up to its largest value and stays there (R122). -/
theorem countError_toNat (n : Millis) : (countError n).toNat = min (n.toNat + 1) (2 ^ 32 - 1) := by
  unfold countError
  split
  · next below =>
    have noCarry : n.toNat + 1 < 2 ^ 32 := by simp only [Config.errCntMax] at below; omega
    rw [BitVec.toNat_add, BitVec.toNat_ofNat, Nat.mod_eq_of_lt (by omega : 1 < 2 ^ 32), Nat.mod_eq_of_lt noCarry]
    omega
  · next above =>
    simp only [Config.errCntMax] at above
    omega

/-- Settles O44. -/
theorem markErrorCountsAndSaturates : Obligations.MarkErrorCountsAndSaturates := fun s notBusy =>
  ⟨countError s.sup.errCnt, countError_toNat _, by rw [exec, execMarkError, unlessBusy_of_not_busy notBusy]; rfl⟩

/-- Settles O45. -/
theorem powerOnResetValues : Obligations.PowerOnResetValues := fun _ => ⟨rfl, rfl, rfl, rfl, rfl, rfl, rfl⟩

/-- OPEN with a legal capacity: a closed context is configured, an open one left alone (R145). -/
theorem execOpen_of_legal {s : State} (notBusy : s.busy = false) {cap : Nat} (legal : 8 ≤ cap) (addr : Byte) :
    execOpen addr cap s = if s.ctx.isOpen then .next (s.emit (.openStatus .failNoSlot))
      else .next ({ s with ctx := configured s.ctx addr cap }.emit (.openStatus .ok)) := by
  have room : ¬ cap < Config.frameLen := Nat.not_lt.mpr legal
  rw [execOpen, unlessBusy_of_not_busy notBusy, if_neg room]

/-- Settles O46. -/
theorem openConfiguresAClosedContext : Obligations.OpenConfiguresAClosedContext := fun addr cap s notBusy legal =>
  ⟨fun closed => (execOpen_of_legal notBusy legal addr).trans (if_neg (by simp [closed])),
    fun isOpen => (execOpen_of_legal notBusy legal addr).trans (if_pos isOpen)⟩

/-- Settles O47. -/
theorem closeClearsTheOpenFlag : Obligations.CloseClearsTheOpenFlag := fun _ notBusy => by
  rw [exec, execClose, unlessBusy_of_not_busy notBusy]

/-- Settles O48: the reserved operation is its refusal; OPEN's check of the capacity comes right after that of busy. -/
theorem refusalsOfTheSpec : Obligations.RefusalsOfTheSpec := by
  refine ⟨fun _ _ _ => rfl, fun addr cap s notBusy small => ?_⟩
  rw [exec, execOpen, unlessBusy_of_not_busy notBusy]
  exact if_pos small

/-- Settles O49: each of the six operations starts with the check of busy. -/
theorem everyOperationFaultsWhenBusy : Obligations.EveryOperationFaultsWhenBusy := by
  intro i s busy notRequest notReserved
  cases i with
  | openContext | closeContext | deliver | markActivity | markError | tick =>
    simp only [exec, execOpen, execClose, execDeliver, execMarkActivity, execMarkError, execTick, unlessBusy_of_busy busy]
  | reservedHostop x args => exact absurd rfl (notReserved x args)
  | readHolding | readInput | writeSingle | writeMultiple | illegal => cases notRequest

/-- Settles O42. -/
theorem forcedResetIsIdempotent : Obligations.ForcedResetIsIdempotent := by
  intro s t u first second
  obtain ⟨ctx, -, -, -, -, -, -, -, trace, -⟩ := forceReset_ok first
  obtain ⟨ctx', sup', -, -, busy', -, -, -, trace', -⟩ := forceReset_ok second
  exact ⟨by rw [ctx', ctx], sup', busy', by rw [trace', trace, List.append_assoc]; rfl⟩

end Sys2Proof.Machine
end

section
/-! The supervisor's clock and TICK (spec/44_supervisor.md sections 1 to 3). -/

namespace Sys2Proof.Machine

/-- Settles O38: both times are reduced modulo 2^32, and so is their difference. -/
theorem elapsedTimeSurvivesTheWrap : Obligations.ElapsedTimeSurvivesTheWrap := by
  intro earlier later le bound
  simp only [elapsed, BitVec.toNat_sub, BitVec.toNat_ofNat]
  omega

theorem windowOver_iff {now : Millis} {u : Sup} : windowOver now u = true ↔ 5000 ≤ (now - u.winStart).toNat := decide_eq_true_iff

theorem thresholdReached_iff {u : Sup} : thresholdReached u = true ↔ 3 ≤ u.errCnt.toNat := decide_eq_true_iff

theorem forcedIntervalOver_iff {now : Millis} {u : Sup} : forcedIntervalOver now u = true ↔ 10000 < (now - u.lastForced).toNat :=
  decide_eq_true_iff

theorem inactive_iff {now : Millis} {u : Sup} : inactive now u = true ↔ 2500 < (now - u.lastAct).toNat := decide_eq_true_iff

/-- The three tests in their order, as conditions on the recovery state (R112 to R114). -/
theorem policyStep_eq (now : Millis) (u : Sup) : policyStep now u =
    if 3 ≤ u.errCnt.toNat then some { u with errCnt := 0#32, winStart := now, lastForced := now }
    else if 10000 < (now - u.lastForced).toNat then some { u with lastForced := now }
    else if 2500 < (now - u.lastAct).toNat then some { u with lastAct := now, lastForced := now }
    else none := by
  simp only [policyStep, thresholdReached_iff, forcedIntervalOver_iff, inactive_iff]

/-- The window step writes the error counter and the window's start only (R111). -/
theorem windowStep_eq {now : Millis} {u : Sup} {err win : Millis}
    (window : 5000 ≤ (now - u.winStart).toNat ∧ err = 0#32 ∧ win = now ∨
      (now - u.winStart).toNat < 5000 ∧ err = u.errCnt ∧ win = u.winStart) :
    windowStep now u = { u with errCnt := err, winStart := win } := by
  obtain ⟨isOver, rfl, rfl⟩ | ⟨notOver, rfl, rfl⟩ := window
  · exact if_pos (windowOver_iff.mpr isOver)
  · exact if_neg (by rw [windowOver_iff]; omega)

/-- The counter and the window's start after the window step always exist. -/
theorem exists_window (now : Millis) (u : Sup) : ∃ err win : Millis, err.toNat ≤ u.errCnt.toNat ∧
    (5000 ≤ (now - u.winStart).toNat ∧ err = 0#32 ∧ win = now ∨
      (now - u.winStart).toNat < 5000 ∧ err = u.errCnt ∧ win = u.winStart) := by
  obtain isOver | notOver := Nat.lt_or_ge (now - u.winStart).toNat 5000
  · exact ⟨_, _, le_rfl, .inr ⟨isOver, rfl, rfl⟩⟩
  · exact ⟨_, _, Nat.zero_le _, .inl ⟨notOver, rfl, rfl⟩⟩

/-- TICK where no policy step fires: the window step's values (R110). -/
theorem execTick_of_none {now : Millis} {s : State} (notBusy : s.busy = false) (policy : policyStep now (windowStep now s.sup) = none) :
    execTick now s = .next (s.setSup (windowStep now s.sup)) := by
  rw [execTick, unlessBusy_of_not_busy notBusy]
  simp only [State.setSup_sup, policy]
  simp only [State.setSup, State.setBusy, ← notBusy]

/-- TICK where a policy step fires: the forced reset, then the timestamps of that step (R110, R115). -/
theorem execTick_of_some {now : Millis} {s : State} {u : Sup} (notBusy : s.busy = false)
    (policy : policyStep now (windowStep now s.sup) = some u) :
    execTick now s = andThen (ofExcept (forceReset ((s.setBusy true).setSup (windowStep now s.sup))))
      fun t => .next ((t.setSup u).setBusy false) := by
  rw [execTick, unlessBusy_of_not_busy notBusy]
  simp only [State.setSup_sup, policy]
  cases forceReset ((s.setBusy true).setSup (windowStep now s.sup)) <;> rfl

/-- A forced reset inside TICK, seen from the state TICK started in. -/
theorem forcedReset_of_forceReset {s t : State} (notBusy : s.busy = false) (v u : Sup)
    (reset : forceReset ((s.setBusy true).setSup v) = .ok t) : ForcedReset s ((t.setSup u).setBusy false) := by
  obtain ⟨ctx, -, fault, refusal, -, rest, inbox, draws, trace, env⟩ := forceReset_ok reset
  exact ⟨ctx, trace, env, fault, refusal, notBusy.symm, rest, draws, inbox⟩

/-- In a quiet environment the reset of a policy step completes. -/
theorem tick_forces_reset {now : Millis} {s : State} {u : Sup} (notBusy : s.busy = false) (quiet : s.env.quiet = true)
    (policy : policyStep now (windowStep now s.sup) = some u) :
    ∃ t, exec (.tick now) s = .next t ∧ ForcedReset s t ∧ t.sup = u := by
  obtain ⟨t, reset, -⟩ := forceReset_of_quiet (s := (s.setBusy true).setSup (windowStep now s.sup)) quiet
  refine ⟨(t.setSup u).setBusy false, ?_, forcedReset_of_forceReset notBusy _ u reset, rfl⟩
  rw [exec, execTick_of_some notBusy policy, reset]
  rfl

/-- Settles O39: the window step, then the first of the three tests that holds. -/
theorem tickAppliesThePolicy : Obligations.TickAppliesThePolicy := by
  intro now s err win notBusy quiet window
  have windowed := windowStep_eq window
  refine ⟨fun threshold => ?_, fun below interval => ?_, fun below noInterval timeout => ?_, fun below noInterval noTimeout => ?_⟩
  · refine tick_forces_reset notBusy quiet ?_
    rw [windowed, policyStep_eq]
    exact if_pos threshold
  · refine tick_forces_reset notBusy quiet ?_
    rw [windowed, policyStep_eq]
    exact (if_neg (Nat.not_le.mpr below)).trans (if_pos interval)
  · refine tick_forces_reset notBusy quiet ?_
    rw [windowed, policyStep_eq]
    exact (if_neg (Nat.not_le.mpr below)).trans ((if_neg (Nat.not_lt.mpr noInterval)).trans (if_pos timeout))
  · rw [exec, execTick_of_none notBusy, windowed]
    · rfl
    · rw [windowed, policyStep_eq]
      exact (if_neg (Nat.not_le.mpr below)).trans ((if_neg (Nat.not_lt.mpr noInterval)).trans (if_neg (Nat.not_lt.mpr noTimeout)))

/-- The policy step that fires sets `last_forced` (R115). -/
theorem policyStep_lastForced {now : Millis} {u v : Sup} (fires : policyStep now u = some v) : v.lastForced = now := by
  unfold policyStep at fires
  split_ifs at fires <;> cases fires <;> rfl

/-- The window step leaves the two other timestamps alone (R111). -/
theorem windowStep_timestamps (now : Millis) (u : Sup) :
    (windowStep now u).lastForced = u.lastForced ∧ (windowStep now u).lastAct = u.lastAct := by
  unfold windowStep
  split <;> exact ⟨rfl, rfl⟩

/-- An operation that checks busy and completes did not find it set. -/
theorem unlessBusy_next {s t : State} {op : State → Result} (h : unlessBusy s op = .next t) : s.busy = false ∧ op s = .next t := by
  cases busy : s.busy with
  | false => exact ⟨rfl, by rwa [unlessBusy_of_not_busy busy] at h⟩
  | true => rw [unlessBusy_of_busy busy] at h; cases h

theorem ofExcept_eq_next {e : Except Fault State} {t : State} : ofExcept e = .next t ↔ e = .ok t := by
  cases e <;> simp

/-- What a TICK that completes has done: no reset and the window step, or a forced reset and a policy step's timestamps (R110). -/
theorem execTick_next {now : Millis} {s t : State} (h : execTick now s = .next t) :
    s.busy = false ∧ (policyStep now (windowStep now s.sup) = none ∧ t = s.setSup (windowStep now s.sup) ∨
      ∃ u r, policyStep now (windowStep now s.sup) = some u ∧ forceReset ((s.setBusy true).setSup (windowStep now s.sup)) = .ok r ∧
        t = (r.setSup u).setBusy false) := by
  obtain ⟨notBusy, -⟩ := unlessBusy_next h
  refine ⟨notBusy, ?_⟩
  cases policy : policyStep now (windowStep now s.sup) with
  | none =>
    rw [execTick_of_none notBusy policy] at h
    cases h
    exact .inl ⟨rfl, rfl⟩
  | some u =>
    rw [execTick_of_some notBusy policy] at h
    obtain ⟨r, reset, ended⟩ := andThen_eq_next h
    cases ended
    exact .inr ⟨u, r, rfl, ofExcept_eq_next.mp reset, rfl⟩

/-- Settles O40: the two outcomes of `execTick_next`. -/
theorem tickForcesAtMostOneReset : Obligations.TickForcesAtMostOneReset := by
  intro now s t h
  obtain ⟨notBusy, ⟨-, rfl⟩ | ⟨u, r, fires, reset, rfl⟩⟩ := execTick_next h
  · exact .inr ⟨rfl, rfl, rfl, windowStep_timestamps now s.sup⟩
  · exact .inl ⟨forcedReset_of_forceReset notBusy _ u reset, policyStep_lastForced fires⟩

/-- A forced reset leaves the environment quiet. -/
theorem ForcedReset.quiet {s t : State} (reset : ForcedReset s t) (quiet : s.env.quiet = true) : t.env.quiet = true := by
  obtain ⟨reads, writes, sent, rearm⟩ := (quiet_iff _).mp quiet
  rw [reset.env]
  exact (quiet_iff _).mpr ⟨reads, writes, sent, all_tail rearm⟩

/-- Settles O41: the inactivity branch of O39, and then its branch without a reset, as both timestamps are at most 2500 ms old. -/
theorem inactivityResetDoesNotRetrigger : Obligations.InactivityResetDoesNotRetrigger := by
  intro at0 s notBusy quiet fewErrors noInterval timeout
  obtain ⟨err, win, fewer, window⟩ := exists_window at0 s.sup
  obtain ⟨-, -, inactivity, -⟩ := tickAppliesThePolicy at0 s err win notBusy quiet window
  obtain ⟨t, ticked, reset, sup⟩ := inactivity (by omega) noInterval timeout
  refine ⟨t, ticked, reset, fun now soon => ?_⟩
  obtain ⟨err', win', fewer', window'⟩ := exists_window now t.sup
  obtain ⟨-, -, -, noReset⟩ := tickAppliesThePolicy now t err' win' (reset.busy.trans notBusy) (reset.quiet quiet) window'
  have few : err'.toNat < 3 := by rw [sup] at fewer'; exact fewer'.trans_lt (fewer.trans_lt fewErrors)
  exact ⟨_, noReset few (by rw [sup]; exact soon.trans (by omega)) (by rw [sup]; exact soon), rfl, rfl, by rw [sup], by rw [sup], few⟩

end Sys2Proof.Machine
end

section
/-! The step: what it fetches and runs (spec/60_exceptions.md; log 1, log 2, log 4). -/

namespace Sys2Proof.Machine

theorem step_of_fault {s : State} {r : FaultReason} (mark : s.fault = some r) : step s = .fault (faultOf r s) := by
  simp only [step, fetch, mark]

theorem step_of_refusal {s : State} {r : RefusalReason} (noFault : s.fault = none) (mark : s.refusal = some r) :
    step s = .refused (refusalOf r s) := by
  simp only [step, fetch, noFault, mark]

theorem frameReady_iff {s : State} : frameReady s = true ↔ s.busy = true ∧ s.ctx.asm = .processing := by
  rw [frameReady, Bool.and_eq_true, decide_eq_true_iff]

section Unmarked
variable {s : State} (noFault : s.fault = none) (noRefusal : s.refusal = none)
include noFault noRefusal

/-- A frame being dispatched is dispatched, and its DELIVER goes on (log 2). -/
theorem step_of_frameReady (ready : frameReady s = true) : step s = andThen (exec (bufFrame s).toInstr s) resumeDeliver := by
  simp only [step, fetch, noFault, noRefusal, ready, if_true]

/-- With no frame being dispatched a step takes the next host call, or holds (log 1, log 21). -/
theorem fetch_of_not_frameReady (notReady : ¬ frameReady s = true) : fetch s = fetchHost s := by
  simp only [fetch, noFault, noRefusal, notReady]
  rfl

theorem step_of_call {call : HostCall} {later : List HostCall} {i : Instr} (notReady : ¬ frameReady s = true)
    (inbox : s.inbox = call :: later) (decoded : decodeHost call = .ok i) : step s = exec i { s with inbox := later } := by
  simp only [step, fetch_of_not_frameReady noFault noRefusal notReady, fetchHost, inbox, decoded]

theorem step_of_illTyped {call : HostCall} {later : List HostCall} {e : DecodeError} (notReady : ¬ frameReady s = true)
    (inbox : s.inbox = call :: later) (rejected : decodeHost call = .error e) :
    step s = refuse (.illTyped call.op) { s with inbox := later } := by
  simp only [step, fetch_of_not_frameReady noFault noRefusal notReady, fetchHost, inbox, rejected]

theorem step_of_empty_inbox (notReady : ¬ frameReady s = true) (inbox : s.inbox = []) : step s = .next s := by
  simp only [step, fetch_of_not_frameReady noFault noRefusal notReady, fetchHost, inbox]

end Unmarked

theorem not_frameReady_of_not_busy {s : State} (notBusy : s.busy = false) : ¬ frameReady s = true := by
  simp [frameReady, notBusy]

/-- Settles O51. -/
theorem stepRunsTheDecodedInstruction : Obligations.StepRunsTheDecodedInstruction := by
  intro s noFault noRefusal
  refine ⟨fun call later i free inbox decoded => ?_, fun i busy processing decoded => ?_⟩
  · refine step_of_call noFault noRefusal ?_ inbox decoded
    rintro ready
    obtain ⟨busy, processing⟩ := frameReady_iff.mp ready
    simp [busy, processing] at free
  · have same : (bufFrame s).toInstr = i := Except.ok.inj decoded
    rw [← same]
    exact step_of_frameReady noFault noRefusal (frameReady_iff.mpr ⟨busy, processing⟩)

/-- Settles O52. -/
theorem stepStopsOnMarksAndIdlesWithoutWork : Obligations.StepStopsOnMarksAndIdlesWithoutWork :=
  ⟨fun _ => step_of_fault, fun _ _ => step_of_fault, fun _ => step_of_refusal, fun _ => step_of_refusal, fun _ _ => step_of_refusal,
    fun _ noFault noRefusal notBusy => step_of_empty_inbox noFault noRefusal (not_frameReady_of_not_busy notBusy),
    fun _ _ _ noFault noRefusal notBusy => step_of_illTyped noFault noRefusal (not_frameReady_of_not_busy notBusy)⟩

end Sys2Proof.Machine
end

section
/-! The known registers of a request: its addresses, and what a run of accesses leaves known (spec/20_memory.md sections 1, 3 and 4; log 13). -/

namespace Sys2Proof.Machine

/-! ### Addresses -/

theorem regAddr_toNat (start : Word16) {i : Nat} (h : i ≤ 124) : (regAddr start i).toNat = 40001 + start.toNat + i := by
  have bound := start.isLt
  rw [regAddr, BitVec.toNat_ofNat, Nat.mod_eq_of_lt]
  · rfl
  · simp only [Config.regBase]; omega

/-- Settles O23. -/
theorem registerAddressesNeverWrap : Obligations.RegisterAddressesNeverWrap := by
  intro start i h
  have bound := start.isLt
  rw [regAddr_toNat start h]
  omega

theorem inRegisterMap_regAddr (start : Word16) {i : Nat} (h : i ≤ 124) : inRegisterMap (regAddr start i) = true ↔ start.toNat + i < 20 := by
  rw [inRegisterMap_iff, regAddr_toNat start h]
  omega

/-- The addresses of `n` registers from index `i` on, ascending (R51). -/
def registersFrom (start : Word16) (i n : Nat) : List LogAddr := (List.range' i n).map (regAddr start)

theorem mem_registersFrom {start : Word16} {n : Nat} {la : LogAddr} : la ∈ registersFrom start 0 n ↔ ∃ i < n, la = regAddr start i := by
  simp [registersFrom, List.mem_range', eq_comm]

/-! ### Keys of cells -/

section Cells
variable {α : Type} {m : List (Nat × α)} {k : Nat}

theorem cellGet_isSome_iff : (cellGet m k).isSome = true ↔ k ∈ m.map Prod.fst := by
  induction m with
  | nil => simp
  | cons c m ih =>
    obtain ⟨a, w⟩ := c
    by_cases h : a = k
    · simp [cellGet, h]
    · simp [cellGet, h, ih, Ne.symm h]

theorem cellsWf_iff_keys_rising : cellsWf m = true ↔ (m.map Prod.fst).Pairwise (· < ·) := by
  induction m with
  | nil => simp [cellsWf]
  | cons c m ih =>
    obtain ⟨a, w⟩ := c
    rw [cellsWf_cons_iff, ih, List.map_cons, List.pairwise_cons, List.forall_mem_map]

/-- A write to a cell that is listed changes no key. -/
theorem cellSet_keys (wf : cellsWf m = true) (listed : k ∈ m.map Prod.fst) (v : α) : (cellSet m k v).map Prod.fst = m.map Prod.fst := by
  induction m with
  | nil => simp at listed
  | cons c m ih =>
    obtain ⟨a, w⟩ := c
    obtain ⟨above, wf'⟩ := (cellsWf_cons_iff a w m).mp wf
    obtain rfl | later := List.mem_cons.mp listed
    · simp [cellSet]
    · have less : a < k := by
        obtain ⟨c, hc, rfl⟩ := List.mem_map.mp later
        exact above c hc
      simp [cellSet, Nat.lt_asymm less, less.ne', ih wf' later]

end Cells

/-! ### The store after a run of accesses -/

/-- The store after accesses at the addresses listed: each leaves what `storeAfter` says of some answer, or, a read of a known register, the store as it
was (log 13). -/
inductive StoreAccessed : List LogAddr → List (Nat × Word16) → List (Nat × Word16) → Prop where
  | done (m : List (Nat × Word16)) : StoreAccessed [] m m
  | kept {la : LogAddr} {las : List LogAddr} {m m' : List (Nat × Word16)} (known : (knownRegister m la).isSome = true)
      (more : StoreAccessed las m m') : StoreAccessed (la :: las) m m'
  | answered {la : LogAddr} {las : List LogAddr} {m m' : List (Nat × Word16)} (v : Word16)
      (more : StoreAccessed las (storeAfter m la v) m') : StoreAccessed (la :: las) m m'

namespace StoreAccessed
variable {las las' : List LogAddr} {m m' m'' : List (Nat × Word16)}

theorem append (first : StoreAccessed las m m') (second : StoreAccessed las' m' m'') : StoreAccessed (las ++ las') m m'' := by
  induction first with
  | done => exact second
  | kept known _ ih => exact .kept known (ih second)
  | answered v _ ih => exact .answered v (ih second)

theorem wf (run : StoreAccessed las m m') (h : cellsWf m = true) : cellsWf m' = true := by
  induction run with
  | done => exact h
  | kept _ _ ih => exact ih h
  | answered v _ ih => exact ih (storeAfter_wf h _ v)

/-- Where nothing is known, nothing is known after. -/
theorem of_nil (run : StoreAccessed las m m') (empty : m = []) : m' = [] := by
  induction run with
  | done => exact empty
  | kept _ _ ih => exact ih empty
  | answered v _ ih => exact ih (by rw [empty, storeAfter_nil])

theorem knownRegister_of_outside {la : LogAddr} (outside : ¬ inRegisterMap la = true) (store : List (Nat × Word16)) :
    knownRegister store la = none := if_neg outside

/-- After an access outside the register map nothing is known (R38). -/
theorem of_outside (run : StoreAccessed las m m') {la : LogAddr} (mem : la ∈ las) (outside : ¬ inRegisterMap la = true) : m' = [] := by
  induction run with
  | done => cases mem
  | kept known _ ih =>
    obtain rfl | mem := List.mem_cons.mp mem
    · rw [knownRegister_of_outside outside] at known; cases known
    · exact ih mem
  | answered v more ih =>
    obtain rfl | mem := List.mem_cons.mp mem
    · exact more.of_nil (storeAfter_of_unknown (knownRegister_of_outside outside _) v)
    · exact ih mem

end StoreAccessed

/-! ### The reference store -/

theorem isReferenceStore_iff {m : List (Nat × Word16)} : isReferenceStore m = true ↔ m.map Prod.fst = (List.range 20).map (40001 + ·) :=
  beq_iff_eq

theorem cellsWf_of_reference {m : List (Nat × Word16)} (h : isReferenceStore m = true) : cellsWf m = true := by
  rw [cellsWf_iff_keys_rising, isReferenceStore_iff.mp h]
  decide

/-- The reference store knows every register of the map (R38). -/
theorem knownRegister_of_reference {m : List (Nat × Word16)} (h : isReferenceStore m = true) {la : LogAddr} (inside : inRegisterMap la = true) :
    (knownRegister m la).isSome = true ∧ la.toNat ∈ m.map Prod.fst := by
  have listed : la.toNat ∈ m.map Prod.fst := by
    obtain ⟨low, high⟩ := (inRegisterMap_iff la).mp inside
    rw [isReferenceStore_iff.mp h, List.mem_map]
    exact ⟨la.toNat - 40001, List.mem_range.mpr (by omega), by omega⟩
  refine ⟨?_, listed⟩
  rw [knownRegister, if_pos inside]
  exact cellGet_isSome_iff.mpr listed

/-- Accesses inside the register map keep the reference store's addresses. -/
theorem StoreAccessed.reference {las : List LogAddr} {m m' : List (Nat × Word16)} (run : StoreAccessed las m m')
    (inside : ∀ la ∈ las, inRegisterMap la = true) (h : isReferenceStore m = true) : isReferenceStore m' = true := by
  induction run with
  | done => exact h
  | kept _ _ ih => exact ih (fun la mem => inside la (List.mem_cons_of_mem _ mem)) h
  | @answered la las m m' v _ ih =>
    obtain ⟨known, listed⟩ := knownRegister_of_reference h (inside la List.mem_cons_self)
    refine ih (fun la mem => inside la (List.mem_cons_of_mem _ mem)) (isReferenceStore_iff.mpr ?_)
    rw [storeAfter_of_known known, cellSet_keys (cellsWf_of_reference h) listed]
    exact isReferenceStore_iff.mp h

end Sys2Proof.Machine
end

section
/-! What the register transactions of a request do, and the reply that ends it (spec/42_dispatch.md, spec/43_response.md). -/

namespace Sys2Proof.Machine

/-! ### Register transactions -/

/-- Register transactions at the addresses `las`, recorded as `events`, are all that happened from `s` to `t`. -/
structure Exchanged (las : List LogAddr) (events : List PortEvent) (s t : State) : Prop where
  /-- The block is left alone. -/
  block : BlockUnchanged s t
  /-- The events are recorded. -/
  trace : t.trace = s.trace ++ events
  /-- The transmit sink is not asked. -/
  sent : t.env.sentReplies = s.env.sentReplies
  /-- Nor is the byte source. -/
  rearm : t.env.rearmReplies = s.env.rearmReplies
  /-- What is known of the store follows from the accesses. -/
  store : StoreAccessed las s.env.store t.env.store
  /-- A quiet environment stays so. -/
  quiet : s.env.quiet = true → t.env.quiet = true

namespace Exchanged
variable {las las' : List LogAddr} {es es' : List PortEvent} {s t u : State}

theorem refl (s : State) : Exchanged [] [] s s := ⟨.refl s, (List.append_nil _).symm, rfl, rfl, .done _, id⟩

theorem append (first : Exchanged las es s t) (second : Exchanged las' es' t u) : Exchanged (las ++ las') (es ++ es') s u :=
  ⟨first.block.trans second.block, by rw [second.trace, first.trace, List.append_assoc], second.sent.trans first.sent,
    second.rearm.trans first.rearm, first.store.append second.store, second.quiet ∘ first.quiet⟩

/-- A reply after register transactions, in a quiet environment (R104). -/
theorem repliesAfter (h : Exchanged las es s u) (quiet : s.env.quiet = true) (fc : Byte) (payload : List Byte) :
    RepliesAfter es ([s.ctx.devAddr, fc] ++ payload) s (send fc payload u) :=
  send_repliesAfter (h.quiet quiet) h.block h.trace h.rearm fc payload

end Exchanged

theorem regRead_store {la : LogAddr} {s t : State} {v : Word16} (h : regRead la s = .ok (v, t)) :
    StoreAccessed [la] s.env.store t.env.store := by
  unfold regRead at h
  split at h
  · cases h
  · cases h; exact .answered v (.done _)
  · split at h
    · next e => cases h; exact .kept (by rw [e]; rfl) (.done _)
    · next e => cases h; exact .answered 0#16 (by rw [storeAfter_of_unknown e]; exact .done _)

theorem regRead_exchanged {la : LogAddr} {s t : State} {v : Word16} (h : regRead la s = .ok (v, t)) :
    Exchanged [la] [.regRead la v] s t := by
  obtain ⟨block, trace, -, -, sent, rearm, -⟩ := regRead_ok h
  refine ⟨block, trace, sent, rearm, regRead_store h, fun quiet => ?_⟩
  obtain ⟨v', t', h', quiet'⟩ := regRead_of_quiet quiet la
  cases h.symm.trans h'
  exact quiet'

theorem regWrite_exchanged {la : LogAddr} {v : Word16} {s t : State} (h : regWrite la v s = .ok t) :
    ∃ stored, Exchanged [la] [.regWrite la v stored] s t := by
  obtain ⟨block, stored, trace, -, -, sent, rearm, store⟩ := regWrite_ok h
  refine ⟨stored, block, trace, sent, rearm, .answered stored (store ▸ .done _), fun quiet => ?_⟩
  obtain ⟨t', h', quiet'⟩ := regWrite_of_quiet quiet la v
  cases h.symm.trans h'
  exact quiet'

theorem payloadValue_exchanged {i : Nat} {s t : State} {v : Word16} (h : payloadValue i s = .ok (v, t)) : Exchanged [] [] s t := by
  obtain ⟨block, env, trace⟩ := payloadValue_ok h
  exact ⟨block, by rw [trace, List.append_nil], by rw [env], by rw [env], by rw [env]; exact .done _, fun quiet => by rw [env]; exact quiet⟩

/-! ### The register loops, one register at a time -/

theorem readRegs_succ_ok {start : Word16} {n i : Nat} {s t : State} {vs : List Word16} :
    readRegs start (n + 1) i s = .ok (vs, t) ↔
      ∃ v s1 vs', regRead (regAddr start i) s = .ok (v, s1) ∧ readRegs start n (i + 1) s1 = .ok (vs', t) ∧ vs = v :: vs' := by
  constructor
  · intro h
    unfold readRegs at h
    split at h
    · cases h
    · next v s1 e1 =>
      split at h
      · cases h
      · next vs' s2 e2 => cases h; exact ⟨v, s1, vs', e1, e2, rfl⟩
  · rintro ⟨v, s1, vs', e1, e2, rfl⟩
    simp only [readRegs, e1, e2]

theorem writeRegs_succ_ok {start : Word16} {n i : Nat} {s t : State} :
    writeRegs start (n + 1) i s = .ok t ↔
      ∃ v s1 s2, payloadValue i s = .ok (v, s1) ∧ regWrite (regAddr start i) v s1 = .ok s2 ∧ writeRegs start n (i + 1) s2 = .ok t := by
  constructor
  · intro h
    unfold writeRegs at h
    split at h
    · cases h
    · next v s1 e1 =>
      split at h
      · cases h
      · next s2 e2 => exact ⟨v, s1, s2, e1, e2, h⟩
  · rintro ⟨v, s1, s2, e1, e2, e3⟩
    simp only [writeRegs, e1, e2, e3]

theorem readRegs_exchanged {start : Word16} {n i : Nat} {s t : State} {vs : List Word16} (h : readRegs start n i s = .ok (vs, t)) :
    Exchanged (registersFrom start i n) (readEvents start i vs) s t := by
  induction n generalizing i s vs with
  | zero => cases h; exact .refl _
  | succ n ih =>
    obtain ⟨v, s1, vs', first, more, rfl⟩ := readRegs_succ_ok.mp h
    exact (regRead_exchanged first).append (ih more)

/-- One register of a multiple write: its payload value is assembled and written. -/
theorem writeReg_exchanged {start : Word16} {i : Nat} {s s1 s2 : State} {v : Word16} (value : payloadValue i s = .ok (v, s1))
    (write : regWrite (regAddr start i) v s1 = .ok s2) :
    ∃ stored, Exchanged [regAddr start i] [.regWrite (regAddr start i) v stored] s s2 := by
  obtain ⟨stored, written⟩ := regWrite_exchanged write
  exact ⟨stored, (payloadValue_exchanged value).append written⟩

theorem writeRegs_exchanged {start : Word16} {n i : Nat} {s t : State} (h : writeRegs start n i s = .ok t) :
    ∃ ws, ws.length = n ∧ Exchanged (registersFrom start i n) (writeEvents start i ws) s t := by
  induction n generalizing i s with
  | zero => cases h; exact ⟨[], rfl, .refl _⟩
  | succ n ih =>
    obtain ⟨v, s1, s2, value, write, more⟩ := writeRegs_succ_ok.mp h
    obtain ⟨stored, one⟩ := writeReg_exchanged value write
    obtain ⟨ws, length, rest⟩ := ih more
    exact ⟨(v, stored) :: ws, by rw [List.length_cons, length], one.append rest⟩

/-! ### A request is its register transactions and one reply -/

/-- The function byte and the payload of a reply (R104). -/
structure Reply where
  /-- The function byte. -/
  fc : Byte
  /-- The payload. -/
  payload : List Byte

/-- The reply of `SEND_EXCEPTION` (R105). -/
def exceptionReply (fc : Byte) (code : ExceptionCode) : Reply := ⟨fc ||| Config.excFlag, [exceptionByte code]⟩

/-- The register transactions of a read request, and the reply it then sends (R94). -/
def readReply (fc : Byte) (start count : Word16) (s : State) : Except Fault (Reply × State) :=
  if readCountLegal count then
    (readRegs start count.toNat 0 s).map fun r => (⟨fc, BitVec.ofNat 8 (2 * count.toNat) :: r.1.flatMap beBytes⟩, r.2)
  else .ok (exceptionReply fc .illegalDataValue, s)

/-- The register transactions of a multiple write, and the reply it then sends (R97). -/
def writeReply (start count : Word16) (byteCount : Byte) (s : State) : Except Fault (Reply × State) :=
  if writeCountLegal count byteCount then
    (writeRegs start count.toNat 0 s).map fun u => (⟨0x10#8, beBytes start ++ beBytes count⟩, u)
  else .ok (exceptionReply 0x10#8 .illegalDataValue, s)

/-- The register transactions of a request, and the reply it then sends (R94 to R98); a host operation has none and an empty one. -/
def replyOf : Instr → State → Except Fault (Reply × State)
  | .readHolding _ start count _ _, s => readReply 0x03#8 start count s
  | .readInput _ start count _ _, s => readReply 0x04#8 start count s
  | .writeSingle _ address value _ _, s =>
    (regWrite (regAddr address 0) value s).map fun u => (⟨0x06#8, beBytes address ++ beBytes value⟩, u)
  | .writeMultiple _ start count byteCount _, s => writeReply start count byteCount s
  | .illegal _ fc _ _ _ _, s => .ok (exceptionReply fc .illegalFunction, s)
  | _, s => .ok (⟨0, []⟩, s)

/-- Send the reply, unless a register transaction faulted. -/
def sendReply : Except Fault (Reply × State) → Result
  | .error e => .fault e
  | .ok (r, u) => send r.fc r.payload u

theorem readRequest_eq_sendReply (fc : Byte) (start count : Word16) (s : State) :
    readRequest fc start count s = sendReply (readReply fc start count s) := by
  by_cases legal : readCountLegal count = true
  · rw [readRequest, if_pos legal, readReply, if_pos legal]
    cases readRegs start count.toNat 0 s <;> rfl
  · rw [readRequest, if_neg legal, readReply, if_neg legal]
    rfl

theorem execWriteMultiple_eq_sendReply (start count : Word16) (byteCount : Byte) (s : State) :
    execWriteMultiple start count byteCount s = sendReply (writeReply start count byteCount s) := by
  by_cases legal : writeCountLegal count byteCount = true
  · rw [execWriteMultiple, if_pos legal, writeReply, if_pos legal]
    cases writeRegs start count.toNat 0 s <;> rfl
  · rw [execWriteMultiple, if_neg legal, writeReply, if_neg legal]
    rfl

/-- Every request is its register transactions and the reply they give. -/
theorem exec_eq_sendReply {i : Instr} (request : isRequest i = true) (s : State) : exec i s = sendReply (replyOf i s) := by
  cases i with
  | readHolding a start count l h => exact readRequest_eq_sendReply 0x03#8 start count s
  | readInput a start count l h => exact readRequest_eq_sendReply 0x04#8 start count s
  | writeSingle a address value l h =>
    simp only [exec, execWriteSingle, replyOf]
    cases regWrite (regAddr address 0) value s <;> rfl
  | writeMultiple a start count l h => exact execWriteMultiple_eq_sendReply start count l s
  | illegal a fc p q l h => rfl
  | openContext | closeContext | deliver | markActivity | markError | tick | reservedHostop => cases request

/-- The registers a request accesses (R94, R96, R97). -/
def registersOf : Instr → List LogAddr
  | .readHolding _ start count _ _ => if readCountLegal count then registersFrom start 0 count.toNat else []
  | .readInput _ start count _ _ => if readCountLegal count then registersFrom start 0 count.toNat else []
  | .writeSingle _ address _ _ _ => [regAddr address 0]
  | .writeMultiple _ start count byteCount _ => if writeCountLegal count byteCount then registersFrom start 0 count.toNat else []
  | _ => []

/-- Events a request's register transactions can be: at most 125 RegReads of a read, one RegWrite, at most 123 of a multiple write, none of any other. -/
def RequestEvents : Instr → List PortEvent → Prop
  | .readHolding _ start _ _ _, es => ∃ vs, vs.length ≤ 125 ∧ es = readEvents start 0 vs
  | .readInput _ start _ _ _, es => ∃ vs, vs.length ≤ 125 ∧ es = readEvents start 0 vs
  | .writeSingle _ address value _ _, es => ∃ stored, es = [.regWrite (regAddr address 0) value stored]
  | .writeMultiple _ start _ _ _, es => ∃ ws, ws.length ≤ 123 ∧ es = writeEvents start 0 ws
  | _, es => es = []

theorem writeCountLegal_iff {count : Word16} {byteCount : Byte} : writeCountLegal count byteCount = true ↔
    1 ≤ count.toNat ∧ count.toNat ≤ 123 ∧ byteCount.toNat = 2 * count.toNat := by
  rw [writeCountLegal, Bool.and_eq_true, Bool.and_eq_true, decide_eq_true_iff, decide_eq_true_iff, beq_iff_eq, Config.maxWriteCount, and_assoc]

theorem length_flatMap_beBytes (vs : List Word16) : (vs.flatMap beBytes).length = 2 * vs.length := by
  induction vs with
  | nil => rfl
  | cons v vs ih => simp [beBytes, ih]; omega

theorem map_eq_ok {α β : Type} {e : Except Fault α} {f : α → β} {b : β} (h : e.map f = .ok b) : ∃ a, e = .ok a ∧ f a = b := by
  cases e with
  | error e => cases h
  | ok a => exact ⟨a, rfl, Except.ok.inj h⟩

theorem readReply_ok {fc : Byte} {start count : Word16} {s u : State} {r : Reply} (h : readReply fc start count s = .ok (r, u)) :
    ∃ vs : List Word16, vs.length ≤ 125 ∧
      Exchanged (if readCountLegal count then registersFrom start 0 count.toNat else []) (readEvents start 0 vs) s u ∧
      1 ≤ r.payload.length ∧ r.payload.length ≤ 251 := by
  unfold readReply at h
  split at h
  · next legal =>
    obtain ⟨⟨vs, u⟩, reads, e⟩ := map_eq_ok h
    cases e
    obtain ⟨length, -⟩ := readRegs_ok reads
    obtain ⟨-, few⟩ := readCountLegal_iff.mp legal
    refine ⟨vs, by omega, ?_, by simp, by simp only [List.length_cons, length_flatMap_beBytes]; omega⟩
    rw [if_pos legal]
    exact readRegs_exchanged reads
  · next illegal =>
    cases h
    rw [if_neg illegal]
    exact ⟨[], by simp, .refl _, le_rfl, by simp [exceptionReply]⟩

theorem writeReply_ok {start count : Word16} {byteCount : Byte} {s u : State} {r : Reply}
    (h : writeReply start count byteCount s = .ok (r, u)) :
    ∃ ws : List (Word16 × Word16), ws.length ≤ 123 ∧
      Exchanged (if writeCountLegal count byteCount then registersFrom start 0 count.toNat else []) (writeEvents start 0 ws) s u ∧
      1 ≤ r.payload.length ∧ r.payload.length ≤ 251 := by
  unfold writeReply at h
  split at h
  · next legal =>
    obtain ⟨u, writes, e⟩ := map_eq_ok h
    cases e
    obtain ⟨ws, length, exchanged⟩ := writeRegs_exchanged writes
    obtain ⟨-, few, -⟩ := writeCountLegal_iff.mp legal
    rw [if_pos legal]
    exact ⟨ws, by omega, exchanged, by simp [beBytes], by simp [beBytes]⟩
  · next illegal =>
    cases h
    rw [if_neg illegal]
    exact ⟨[], by simp, .refl _, le_rfl, by simp [exceptionReply]⟩

/-- What the register transactions of a request do, and how long its reply is: a read reply of 125 registers is the longest. -/
theorem replyOf_ok {i : Instr} (request : isRequest i = true) {s u : State} {r : Reply} (h : replyOf i s = .ok (r, u)) :
    ∃ events, RequestEvents i events ∧ Exchanged (registersOf i) events s u ∧ 1 ≤ r.payload.length ∧ r.payload.length ≤ 251 := by
  cases i with
  | readHolding | readInput =>
    obtain ⟨vs, few, exchanged, bounds⟩ := readReply_ok h
    exact ⟨_, ⟨vs, few, rfl⟩, exchanged, bounds⟩
  | writeSingle a address value =>
    obtain ⟨u, write, e⟩ := map_eq_ok h
    cases e
    obtain ⟨stored, exchanged⟩ := regWrite_exchanged write
    exact ⟨_, ⟨stored, rfl⟩, exchanged, by simp [beBytes], by simp [beBytes]⟩
  | writeMultiple =>
    obtain ⟨ws, few, exchanged, bounds⟩ := writeReply_ok h
    exact ⟨_, ⟨ws, few, rfl⟩, exchanged, bounds⟩
  | illegal => cases h; exact ⟨[], rfl, .refl s, le_rfl, by simp [exceptionReply]⟩
  | openContext | closeContext | deliver | markActivity | markError | tick | reservedHostop => cases request

/-- What a request that completes has done: its register transactions, then its reply. -/
theorem request_next {i : Instr} (request : isRequest i = true) {s t : State} (h : exec i s = .next t) :
    ∃ (r : Reply) (u : State) (events : List PortEvent), replyOf i s = .ok (r, u) ∧ send r.fc r.payload u = .next t ∧
      RequestEvents i events ∧ Exchanged (registersOf i) events s u ∧ 1 ≤ r.payload.length ∧ r.payload.length ≤ 251 := by
  rw [exec_eq_sendReply request] at h
  cases reply : replyOf i s with
  | error e => rw [reply] at h; cases h
  | ok ru =>
    obtain ⟨r, u⟩ := ru
    obtain ⟨events, kind, exchanged, bounds⟩ := replyOf_ok request reply
    exact ⟨r, u, events, rfl, by rw [reply] at h; exact h, kind, exchanged, bounds⟩

end Sys2Proof.Machine
end

section
/-! What every request that completes has done (spec/42_dispatch.md section 1; spec/43_response.md; log 13). -/

namespace Sys2Proof.Machine

/-! ### The kinds of a request's events -/

theorem readEvents_all {start : Word16} {p : PortEvent → Bool} (h : ∀ la v, p (.regRead la v) = true) (i : Nat) (vs : List Word16) :
    (readEvents start i vs).all p = true := by
  induction vs generalizing i with
  | nil => rfl
  | cons v vs ih => simp [readEvents, h, ih]

theorem writeEvents_all {start : Word16} {p : PortEvent → Bool} (h : ∀ la v stored, p (.regWrite la v stored) = true) (i : Nat)
    (ws : List (Word16 × Word16)) : (writeEvents start i ws).all p = true := by
  induction ws generalizing i with
  | nil => rfl
  | cons w ws ih => simp [writeEvents, h, ih]

@[simp] theorem readEvents_length (start : Word16) (i : Nat) (vs : List Word16) : (readEvents start i vs).length = vs.length := by
  induction vs generalizing i with
  | nil => rfl
  | cons v vs ih => simp [readEvents, ih]

@[simp] theorem writeEvents_length (start : Word16) (i : Nat) (ws : List (Word16 × Word16)) : (writeEvents start i ws).length = ws.length := by
  induction ws generalizing i with
  | nil => rfl
  | cons w ws ih => simp [writeEvents, ih]

/-- A property of RegReads and RegWrites holds of all events of a request's register transactions. -/
theorem RequestEvents.all {i : Instr} {es : List PortEvent} (h : RequestEvents i es) {p : PortEvent → Bool}
    (reads : ∀ la v, p (.regRead la v) = true) (writes : ∀ la v stored, p (.regWrite la v stored) = true) : es.all p = true := by
  cases i with
  | readHolding | readInput => obtain ⟨vs, -, rfl⟩ := h; exact readEvents_all reads 0 vs
  | writeSingle => obtain ⟨stored, rfl⟩ := h; simp [writes]
  | writeMultiple => obtain ⟨ws, -, rfl⟩ := h; exact writeEvents_all writes 0 ws
  | illegal | openContext | closeContext | deliver | markActivity | markError | tick | reservedHostop => cases h; rfl

theorem RequestEvents.length_le {i : Instr} {es : List PortEvent} (h : RequestEvents i es) : es.length ≤ 125 := by
  cases i with
  | readHolding | readInput => obtain ⟨vs, few, rfl⟩ := h; simpa using few
  | writeSingle => obtain ⟨stored, rfl⟩ := h; simp
  | writeMultiple => obtain ⟨ws, few, rfl⟩ := h; simp; omega
  | illegal | openContext | closeContext | deliver | markActivity | markError | tick | reservedHostop => cases h; simp

/-! ### The obligations -/

/-- The block and the trace after a request that completes: its register transactions and one Transmit of its reply. -/
theorem request_trace {i : Instr} (request : isRequest i = true) {s t : State} (h : exec i s = .next t) :
    ∃ (r : Reply) (events : List PortEvent), RequestEvents i events ∧ 1 ≤ r.payload.length ∧ r.payload.length ≤ 251 ∧
      BlockUnchanged s t ∧ ∃ n ≤ (replyBytes s r.fc r.payload).length,
        t.trace = s.trace ++ events ++ [.transmit (replyBytes s r.fc r.payload) n] := by
  obtain ⟨r, u, events, -, sent, kind, exchanged, long, short⟩ := request_next request h
  obtain ⟨block, n, bound, trace, -⟩ := send_next sent
  have bytes : replyBytes u r.fc r.payload = replyBytes s r.fc r.payload := by rw [replyBytes, replyBytes, exchanged.block.ctx]
  rw [bytes] at bound trace
  exact ⟨r, events, kind, long, short, exchanged.block.trans block, n, bound, by rw [trace, exchanged.trace]⟩

/-- Settles O20: the reply is address, function byte, payload and their CRC, which makes the CRC over all of it 0. -/
theorem everyRequestSendsOneValidReply : Obligations.EveryRequestSendsOneValidReply := by
  intro i s t request h
  obtain ⟨r, events, kind, long, short, -, n, bound, trace⟩ := request_trace request h
  have length : (replyBytes s r.fc r.payload).length = r.payload.length + 4 := by simp [replyBytes, withCrc, leBytes]
  refine ⟨events, replyBytes s r.fc r.payload, n, trace, kind.all (fun _ _ => rfl) (fun _ _ _ => rfl), rfl, ?_, ?_, bound,
    crcOfAFrameWithItsCrcIsZero _⟩
  · omega
  · omega

/-- Settles O21: a request's events are those of `RequestEvents` and a Transmit. -/
theorem requestsUseOnePortAndLeaveTheBlockAlone : Obligations.RequestsUseOnePortAndLeaveTheBlockAlone := by
  intro i s t request h
  obtain ⟨r, events, kind, -, -, block, n, -, trace⟩ := request_trace request h
  refine ⟨block, events ++ [.transmit (replyBytes s r.fc r.payload) n], by rw [trace, List.append_assoc], ?_, ?_⟩
  · have transmit : ([.transmit (replyBytes s r.fc r.payload) n] : List PortEvent).filter (fun e => e.isRegRead || e.isRegWrite) = [] := rfl
    rw [List.filter_append, transmit, List.append_nil]
    exact (List.length_filter_le _ _).trans kind.length_le
  · cases i with
    | readHolding | readInput =>
      obtain ⟨vs, -, rfl⟩ := kind
      simp only [List.all_append, Bool.and_eq_true]
      exact ⟨readEvents_all (fun _ _ => rfl) 0 vs, rfl⟩
    | writeSingle => obtain ⟨stored, rfl⟩ := kind; rfl
    | writeMultiple =>
      obtain ⟨ws, -, rfl⟩ := kind
      simp only [List.all_append, Bool.and_eq_true]
      exact ⟨writeEvents_all (fun _ _ _ => rfl) 0 ws, rfl⟩
    | illegal => cases kind; rfl
    | openContext | closeContext | deliver | markActivity | markError | tick | reservedHostop => cases request

/-- What a request that completes leaves known of the store. -/
theorem request_store {i : Instr} (request : isRequest i = true) {s t : State} (h : exec i s = .next t) :
    StoreAccessed (registersOf i) s.env.store t.env.store := by
  obtain ⟨r, u, events, -, sent, -, exchanged, -⟩ := request_next request h
  obtain ⟨-, n, -, -, env⟩ := send_next sent
  rw [env]
  exact exchanged.store

/-- The registers of a legal run lie in the register map when the last one does. -/
theorem registersFrom_inside {start : Word16} {n : Nat} (few : n ≤ 125) (inside : start.toNat + n ≤ 20) :
    ∀ la ∈ registersFrom start 0 n, inRegisterMap la = true := by
  intro la mem
  obtain ⟨i, hi, rfl⟩ := mem_registersFrom.mp mem
  exact (inRegisterMap_regAddr start (Nat.le_of_lt_succ (hi.trans_le few))).mpr (by omega)

/-- Where a run ends outside the register map, its last register lies there. -/
theorem registersFrom_outside {start : Word16} {n : Nat} (nonzero : 1 ≤ n) (few : n ≤ 125) (outside : 20 < start.toNat + n) :
    ∃ la ∈ registersFrom start 0 n, ¬ inRegisterMap la = true :=
  ⟨regAddr start (n - 1), mem_registersFrom.mpr ⟨n - 1, Nat.sub_lt nonzero Nat.one_pos, rfl⟩, by
    rw [inRegisterMap_regAddr start (Nat.sub_le_iff_le_add.mpr few)]
    omega⟩

/-- Both clauses of the reference store for a run of registers that is accessed when its operands are legal. -/
theorem reference_of_run {legal : Bool} {start count : Word16} {m m' : List (Nat × Word16)}
    (run : StoreAccessed (if legal then registersFrom start 0 count.toNat else []) m m')
    (few : legal = true → 1 ≤ count.toNat ∧ count.toNat ≤ 125) :
    (isReferenceStore m = true → start.toNat + count.toNat ≤ 20 ∨ legal = false → isReferenceStore m' = true) ∧
    (20 < start.toNat + count.toNat → legal = true → m' = []) := by
  constructor
  · intro reference choice
    refine run.reference (fun la mem => ?_) reference
    cases h : legal with
    | false => rw [h] at mem; cases mem
    | true =>
      rw [h, if_pos rfl] at mem
      exact registersFrom_inside (few h).2 (choice.resolve_right (by simp [h])) la mem
  · intro outside h
    rw [h, if_pos rfl] at run
    obtain ⟨la, mem, notInside⟩ := registersFrom_outside (few h).1 (few h).2 outside
    exact run.of_outside mem notInside

/-- The clauses of O25 for either read request. -/
theorem reference_of_read {start count : Word16} {m m' : List (Nat × Word16)}
    (run : StoreAccessed (if readCountLegal count then registersFrom start 0 count.toNat else []) m m') :
    (isReferenceStore m = true → start.toNat + count.toNat ≤ 20 ∨ count.toNat = 0 ∨ 125 < count.toNat → isReferenceStore m' = true) ∧
    (20 < start.toNat + count.toNat → 1 ≤ count.toNat → count.toNat ≤ 125 → m' = []) := by
  obtain ⟨keeps, loses⟩ := reference_of_run run readCountLegal_iff.mp
  refine ⟨fun reference choice => keeps reference (choice.imp_right fun illegal => ?_),
    fun outside nonzero few => loses outside (readCountLegal_iff.mpr ⟨nonzero, few⟩)⟩
  rw [← Bool.not_eq_true, readCountLegal_iff]
  omega

/-- Settles O25: the accesses of `registersOf`, each inside the register map or one outside. -/
theorem referenceStoreKeepsItsAddresses : Obligations.ReferenceStoreKeepsItsAddresses := by
  intro a p q l h s t
  refine ⟨?_, fun ends => ?_, fun ends => ?_⟩
  · rintro (ends | ends)
    · exact reference_of_read (request_store (by rfl) ends)
    · exact reference_of_read (request_store (by rfl) ends)
  · have run := request_store (by rfl) ends
    refine ⟨fun reference inside => run.reference ?_ reference, fun outside => run.of_outside List.mem_cons_self ?_⟩
    · intro la mem
      rw [List.mem_singleton.mp mem]
      exact (inRegisterMap_regAddr p (by omega)).mpr inside
    · rw [inRegisterMap_regAddr p (by omega)]
      omega
  · have run := request_store (by rfl) ends
    obtain ⟨keeps, loses⟩ := reference_of_run run fun legal => by have := writeCountLegal_iff.mp legal; omega
    refine ⟨fun reference choice => keeps reference (choice.imp_right fun illegal => ?_),
      fun outside nonzero few double => loses outside (writeCountLegal_iff.mpr ⟨nonzero, few, double⟩)⟩
    rw [← Bool.not_eq_true, writeCountLegal_iff]
    omega

end Sys2Proof.Machine
end

section
/-! Read requests: which values they answer with (spec/20_memory.md section 1; spec/42_dispatch.md section 2; log 11, log 13). -/

namespace Sys2Proof.Machine

/-- Settles O11: READ_INPUT is the read request with function code 0x04 (D12). -/
theorem readInputAnswersItsRegisters : Obligations.ReadInputAnswersItsRegisters := fun _ start count _ _ _ =>
  ⟨rfl, fun quiet => readRequest_answered quiet 0x04#8 start count⟩

/-- A read request whose RegReads are answered by `vs` replies with `vs`. -/
theorem readRequest_repliesAfter {start count : Word16} {s u : State} {vs : List Word16} (quiet : s.env.quiet = true)
    (legal : readCountLegal count = true) (reads : readRegs start count.toNat 0 s = .ok (vs, u)) (fc : Byte) :
    RepliesAfter (readEvents start 0 vs) ([s.ctx.devAddr, fc, BitVec.ofNat 8 (2 * count.toNat)] ++ vs.flatMap beBytes) s
      (readRequest fc start count s) := by
  rw [readRequest_of_legal legal reads]
  exact (readRegs_exchanged reads).repliesAfter quiet fc _

/-- A read request that completes ends with the partners its RegReads leave, but for the sink. -/
theorem readRequest_env {fc : Byte} {start count : Word16} {s u t : State} {vs : List Word16} (legal : readCountLegal count = true)
    (reads : readRegs start count.toNat 0 s = .ok (vs, u)) (h : readRequest fc start count s = .next t) :
    t.env.readReplies = u.env.readReplies ∧ t.env.store = u.env.store := by
  rw [readRequest_of_legal legal reads] at h
  obtain ⟨-, n, -, -, env⟩ := send_next h
  rw [env]
  exact ⟨rfl, rfl⟩

/-! ### Listed answers -/

/-- The store's next listed answer is the one given. -/
theorem regRead_of_answer {s : State} {v : Word16} {later : List (PartnerReply Word16)} (replies : s.env.readReplies = .answers v :: later)
    (la : LogAddr) : ∃ u, regRead la s = .ok (v, u) ∧ u.env.readReplies = later := by
  refine ⟨(s.setEnv { s.env with readReplies := later, store := storeAfter s.env.store la v }).emit (.regRead la v), ?_, rfl⟩
  unfold regRead
  rw [replies]

theorem readRegs_of_answers {s : State} {vs : List Word16} {later : List (PartnerReply Word16)}
    (replies : s.env.readReplies = vs.map .answers ++ later) (start : Word16) (i : Nat) :
    ∃ u, readRegs start vs.length i s = .ok (vs, u) ∧ u.env.readReplies = later := by
  induction vs generalizing i s with
  | nil => exact ⟨s, rfl, replies⟩
  | cons v vs ih =>
    obtain ⟨s1, first, replies'⟩ := regRead_of_answer replies (regAddr start i)
    obtain ⟨u, more, rest⟩ := ih replies' (i + 1)
    exact ⟨u, readRegs_succ_ok.mpr ⟨v, s1, vs, first, more, rfl⟩, rest⟩

/-- Settles O12: the RegReads take the listed answers one by one. -/
theorem readReplyCarriesTheAnswersInOrder : Obligations.ReadReplyCarriesTheAnswersInOrder := by
  intro a start count l h s vs later quiet length nonzero few replies
  have legal := readCountLegal_iff.mpr ⟨nonzero, few⟩
  obtain ⟨u, reads, rest⟩ := readRegs_of_answers replies start 0
  rw [length] at reads
  refine ⟨readRequest_repliesAfter quiet legal reads 0x03#8, readRequest_repliesAfter quiet legal reads 0x04#8, ?_⟩
  rintro t (ends | ends)
  · exact (readRequest_env legal reads ends).1.trans rest
  · exact (readRequest_env legal reads ends).1.trans rest

/-! ### Known registers -/

/-- With no answer listed a known register answers its value, and nothing changes but the trace. -/
theorem regRead_of_known {s : State} {la : LogAddr} {v : Word16} (replies : s.env.readReplies = [])
    (known : knownRegister s.env.store la = some v) : regRead la s = .ok (v, s.emit (.regRead la v)) := by
  unfold regRead
  rw [replies]
  simp only [known]

theorem readRegs_of_known {s : State} {start : Word16} {n i : Nat} (replies : s.env.readReplies = [])
    (known : ∀ j < n, (knownRegister s.env.store (regAddr start (i + j))).isSome = true) :
    ∃ vs u, readRegs start n i s = .ok (vs, u) ∧ u.env = s.env ∧
      ∀ j < n, cellGet s.env.store (regAddr start (i + j)).toNat = vs[j]? := by
  induction n generalizing i s with
  | zero => exact ⟨[], s, rfl, rfl, by simp⟩
  | succ n ih =>
    obtain ⟨v, first⟩ := Option.isSome_iff_exists.mp (known 0 n.succ_pos)
    have shift : ∀ j, i + 1 + j = i + (j + 1) := by omega
    obtain ⟨vs, u, more, env, values⟩ := ih (i := i + 1) (s := s.emit (.regRead (regAddr start i) v)) replies
      fun j hj => by rw [shift]; exact known (j + 1) (Nat.succ_lt_succ hj)
    refine ⟨v :: vs, u, readRegs_succ_ok.mpr ⟨v, _, vs, regRead_of_known replies first, more, rfl⟩, env, fun j hj => ?_⟩
    cases j with
    | zero => exact (knownRegister_eq_some.mp first).2
    | succ j => rw [← shift]; exact values j (Nat.lt_of_succ_lt_succ hj)

theorem registersKnown_iff {s : State} {start : Word16} {count : Nat} :
    registersKnown s start count = true ↔ ∀ i < count, (knownRegister s.env.store (regAddr start i)).isSome = true := by
  simp only [registersKnown, List.all_eq_true, List.mem_range]

/-- Settles O13: the RegReads answer the known values and leave the partners as they were. -/
theorem readOfKnownRegistersAnswersThem : Obligations.ReadOfKnownRegistersAnswersThem := by
  intro a start count l h s quiet nonzero few replies known
  have legal := readCountLegal_iff.mpr ⟨nonzero, few⟩
  obtain ⟨vs, u, reads, env, values⟩ := readRegs_of_known (i := 0) replies fun j hj => by
    rw [Nat.zero_add]
    exact registersKnown_iff.mp known j hj
  obtain ⟨length, -⟩ := readRegs_ok reads
  refine ⟨vs, length, fun i hi => by rw [← values i hi, Nat.zero_add], readRequest_repliesAfter quiet legal reads 0x03#8,
    readRequest_repliesAfter quiet legal reads 0x04#8, ?_⟩
  rintro t (ends | ends)
  · exact (readRequest_env legal reads ends).2.trans (by rw [env])
  · exact (readRequest_env legal reads ends).2.trans (by rw [env])

end Sys2Proof.Machine
end

section
/-! Write requests (spec/42_dispatch.md sections 3 and 5). -/

namespace Sys2Proof.Machine

/-! ### WRITE_SINGLE -/

/-- WRITE_SINGLE after its RegWrite is the reply that echoes it (R96). -/
theorem execWriteSingle_of_write {address value : Word16} {s u : State} (write : regWrite (regAddr address 0) value s = .ok u) :
    execWriteSingle address value s = send 0x06#8 (beBytes address ++ beBytes value) u := by
  simp only [execWriteSingle, write]

/-- WRITE_SINGLE in a quiet environment (R96). -/
theorem execWriteSingle_of_quiet {s : State} (quiet : s.env.quiet = true) (address value : Word16) :
    ∃ stored, RepliesAfter [.regWrite (regAddr address 0) value stored]
      [s.ctx.devAddr, 0x06#8, hi8 address, lo8 address, hi8 value, lo8 value] s (execWriteSingle address value s) := by
  obtain ⟨u, write, -⟩ := regWrite_of_quiet quiet (regAddr address 0) value
  obtain ⟨stored, exchanged⟩ := regWrite_exchanged write
  rw [execWriteSingle_of_write write]
  exact ⟨stored, exchanged.repliesAfter quiet 0x06#8 _⟩

/-- Settles O14. -/
theorem writeSingleWritesOnceAndEchoes : Obligations.WriteSingleWritesOnceAndEchoes := by
  intro a address value l h s quiet
  obtain ⟨stored, replies⟩ := execWriteSingle_of_quiet quiet address value
  refine ⟨stored, replies, fun t ends => ?_⟩
  obtain ⟨u, write, -⟩ := regWrite_of_quiet quiet (regAddr address 0) value
  obtain ⟨-, -, -, reads, -⟩ := regWrite_ok write
  obtain ⟨-, n, -, -, env⟩ := send_next ((execWriteSingle_of_write write).symm.trans ends)
  rw [env]
  exact reads

/-- A reply whose body are the first six bytes of a frame with a matching CRC is the frame. -/
theorem RepliesAfter.transmits_frame {f : Frame} {s : State} {r : Result} {events : List PortEvent}
    (replies : RepliesAfter events f.body s r) (crc : crc16 f.body = f.rxCrc) :
    ∃ t n, r = .next t ∧ t.trace = s.trace ++ events ++ [.transmit f.bytes n] := by
  obtain ⟨t, n, ends, -, trace, -⟩ := replies
  refine ⟨t, n, ends, ?_⟩
  rw [trace, crc, Frame.rxCrc, le16_eq_be16_swap, lo8_be16, hi8_be16]
  rfl

/-- Settles O22: the echoed fields are the frame's bytes, and its CRC matches. -/
theorem writeSingleReplyIsTheRequest : Obligations.WriteSingleReplyIsTheRequest := by
  intro f s quiet fc addr crc
  obtain ⟨stored, replies⟩ := execWriteSingle_of_quiet quiet f.first f.second
  have echoed : [s.ctx.devAddr, 0x06#8, hi8 f.first, lo8 f.first, hi8 f.second, lo8 f.second] = f.body := by
    simp [Frame.first, Frame.second, Frame.body, addr, fc]
  rw [echoed] at replies
  obtain ⟨t, n, ends, trace⟩ := replies.transmits_frame crc
  refine ⟨t, stored, n, ?_, by rw [trace, List.append_assoc]; rfl⟩
  rw [Frame.toInstr, if_neg (by rw [fc]; decide), if_neg (by rw [fc]; decide), if_pos fc]
  exact ends

/-- A write to a known register with no answer listed stores the value. -/
theorem regWrite_of_known {s : State} {la : LogAddr} {v : Word16} (replies : s.env.writeReplies = [])
    (known : (knownRegister s.env.store la).isSome = true) :
    regWrite la v s = .ok ((s.setEnv { s.env with store := storeAfter s.env.store la v }).emit (.regWrite la v v)) := by
  obtain ⟨w, hw⟩ := Option.isSome_iff_exists.mp known
  unfold regWrite
  rw [replies]
  simp only [hw]

/-- Settles O24: the RegWrite stores the value, and the RegRead after it finds it there. -/
theorem writtenRegisterIsReadBack : Obligations.WrittenRegisterIsReadBack := by
  intro a address value l h s quiet reads writes known
  have isKnown := registersKnown_iff.mp known 0 Nat.one_pos
  have write := regWrite_of_known (v := value) writes isKnown
  have written := execWriteSingle_of_write write
  obtain ⟨stored, exchanged⟩ := regWrite_exchanged write
  obtain ⟨t, ends, stillQuiet⟩ := send_of_quiet (exchanged.quiet quiet) 0x06#8 (beBytes address ++ beBytes value)
  obtain ⟨block, n, -, -, env⟩ := send_next ends
  have store : t.env.store = storeAfter s.env.store (regAddr address 0) value := by rw [env]; rfl
  have noReads : t.env.readReplies = [] := by rw [env]; exact reads
  have ctx : t.ctx = s.ctx := (exchanged.block.trans block).ctx
  refine ⟨t, written.trans ends, fun la other => ?_, ?_⟩
  · rw [store, storeAfter_of_known isKnown, cellGet_cellSet_ne _ _ other]
  · have valueKnown : knownRegister t.env.store (regAddr address 0) = some value := by rw [store, knownRegister_storeAfter isKnown]
    have read : readRegs address (1#16).toNat 0 t = .ok ([value], t.emit (.regRead (regAddr address 0) value)) :=
      readRegs_succ_ok.mpr ⟨value, _, [], regRead_of_known noReads valueKnown, rfl, rfl⟩
    rw [← ctx]
    exact readRequest_repliesAfter stillQuiet (by decide) read 0x03#8

/-! ### WRITE_MULTIPLE -/

/-- With legal operands: the RegWrites, then the reply that mirrors the request (R97). -/
theorem execWriteMultiple_of_writes {start count : Word16} {byteCount : Byte} {s u : State}
    (legal : writeCountLegal count byteCount = true) (writes : writeRegs start count.toNat 0 s = .ok u) :
    execWriteMultiple start count byteCount s = send 0x10#8 (beBytes start ++ beBytes count) u := by
  rw [execWriteMultiple, if_pos legal, writes]

/-- With legal operands, a fault of a register transaction ends the request (R97). -/
theorem execWriteMultiple_of_fault {start count : Word16} {byteCount : Byte} {s : State} {e : Fault}
    (legal : writeCountLegal count byteCount = true) (faults : writeRegs start count.toNat 0 s = .error e) :
    execWriteMultiple start count byteCount s = .fault e := by
  rw [execWriteMultiple, if_pos legal, faults]

theorem execWriteMultiple_of_not_legal {count : Word16} {byteCount : Byte} (illegal : ¬ writeCountLegal count byteCount = true)
    (start : Word16) (s : State) : execWriteMultiple start count byteCount s = sendException 0x10#8 .illegalDataValue s :=
  if_neg illegal

/-- The first payload value has buffer byte 7 as its high byte (R97, D11). -/
theorem hi8_payloadValue_zero {s t : State} {v : Word16} (h : payloadValue 0 s = .ok (v, t)) : hi8 v = bufByte s 7 := by
  unfold payloadValue at h
  split at h
  · cases h
  · next hi s1 first =>
    split at h
    · cases h
    · next lo s2 second =>
      cases h
      cases first
      exact hi8_be16 _ _

/-- The RegWrites of at least one register, the first value told apart. -/
theorem writeRegs_head {start : Word16} {n : Nat} {s t : State} (h : writeRegs start n 0 s = .ok t) (nonzero : 1 ≤ n) :
    ∃ ws, ws.length = n ∧ (ws.head?.map fun w => hi8 w.1) = some (bufByte s 7) ∧
      Exchanged (registersFrom start 0 n) (writeEvents start 0 ws) s t := by
  obtain ⟨m, rfl⟩ := Nat.exists_eq_add_of_le' nonzero
  obtain ⟨v, s1, s2, value, write, more⟩ := writeRegs_succ_ok.mp h
  obtain ⟨stored, one⟩ := writeReg_exchanged value write
  obtain ⟨ws, length, rest⟩ := writeRegs_exchanged more
  exact ⟨(v, stored) :: ws, by rw [List.length_cons, length], congrArg some (hi8_payloadValue_zero value), one.append rest⟩

/-- WRITE_MULTIPLE with legal operands and room in a quiet environment (R97). -/
theorem execWriteMultiple_of_quiet {start count : Word16} {byteCount : Byte} {s : State} (quiet : s.env.quiet = true)
    (legal : writeCountLegal count byteCount = true) (room : 6 + 2 * count.toNat < s.ctx.bufCap) :
    ∃ ws : List (Word16 × Word16), ws.length = count.toNat ∧ (ws.head?.map fun w => hi8 w.1) = some (bufByte s 7) ∧
      RepliesAfter (writeEvents start 0 ws) [s.ctx.devAddr, 0x10#8, hi8 start, lo8 start, hi8 count, lo8 count] s
        (execWriteMultiple start count byteCount s) := by
  obtain ⟨u, writes, -⟩ := writeRegs_of_quiet quiet start count.toNat 0 (by omega)
  obtain ⟨ws, length, head, exchanged⟩ := writeRegs_head writes (writeCountLegal_iff.mp legal).1
  rw [execWriteMultiple_of_writes legal writes]
  exact ⟨ws, length, head, exchanged.repliesAfter quiet 0x10#8 _⟩

/-- Settles O15. -/
theorem writeMultipleWritesItsRegisters : Obligations.WriteMultipleWritesItsRegisters :=
  fun _ _ _ _ _ _ quiet nonzero few double room => execWriteMultiple_of_quiet quiet (writeCountLegal_iff.mpr ⟨nonzero, few, double⟩) room

/-- Settles O56: the mirrored fields are the frame's bytes, and its CRC matches. -/
theorem writeMultipleReplyIsTheRequest : Obligations.WriteMultipleReplyIsTheRequest := by
  intro f s quiet fc addr crc nonzero few double room
  obtain ⟨ws, length, -, replies⟩ := execWriteMultiple_of_quiet (start := f.first) (count := f.second) (byteCount := f.crcLo) quiet
    (writeCountLegal_iff.mpr ⟨nonzero, few, double⟩) room
  have mirrored : [s.ctx.devAddr, 0x10#8, hi8 f.first, lo8 f.first, hi8 f.second, lo8 f.second] = f.body := by
    simp [Frame.first, Frame.second, Frame.body, addr, fc]
  rw [mirrored] at replies
  obtain ⟨t, n, ends, trace⟩ := replies.transmits_frame crc
  refine ⟨t, ws, n, ?_, length, trace⟩
  rw [Frame.toInstr, if_neg (by rw [fc]; decide), if_neg (by rw [fc]; decide), if_neg (by rw [fc]; decide), if_pos fc]
  exact ends

/-- Settles O17. -/
theorem writeMultipleRejectsItsOperands : Obligations.WriteMultipleRejectsItsOperands := by
  intro a start count byteCount h s quiet outside
  rw [exec, execWriteMultiple_of_not_legal (by rw [writeCountLegal_iff]; omega)]
  exact sendException_repliesAfter quiet 0x10#8 .illegalDataValue

/-- A payload value whose low or high byte is the first outside the buffer faults there (R35). -/
theorem payloadValue_overread {i : Nat} {s : State} (frame : 8 ≤ s.ctx.bufCap) (low : 7 + 2 * i ≤ s.ctx.bufCap)
    (high : s.ctx.bufCap ≤ 8 + 2 * i) :
    ∃ u, payloadValue i s = .error (raiseFault (.bufOverread s.ctx.bufCap) u) ∧ BlockUnchanged s u ∧ u.trace = s.trace := by
  have overread : ∀ (k : Nat) (u : State), u.ctx = s.ctx → k = s.ctx.bufCap →
      bufRead k u = .error (raiseFault (.bufOverread s.ctx.bufCap) u) := by
    rintro k u ctx rfl
    obtain ⟨below, -⟩ | ⟨-, inside, -⟩ | ⟨-, -, faults⟩ := bufRead_cases s.ctx.bufCap u
    · simp only [Config.frameLen] at below; omega
    · rw [ctx] at inside; omega
    · exact faults
  obtain atHigh | atLow : 7 + 2 * i = s.ctx.bufCap ∨ 8 + 2 * i = s.ctx.bufCap := by omega
  · exact ⟨s, by simp only [payloadValue, overread _ s rfl atHigh], .refl s, rfl⟩
  · obtain ⟨-, read⟩ | ⟨-, -, read⟩ | ⟨-, outside, -⟩ := bufRead_cases (7 + 2 * i) s
    · exact ⟨s, by simp only [payloadValue, read, overread _ s rfl atLow], .refl s, rfl⟩
    · exact ⟨s.drawn, by simp only [payloadValue, read, overread _ s.drawn rfl atLow], ⟨rfl, rfl, rfl, rfl, rfl, rfl, rfl⟩, rfl⟩
    · omega

/-- RegWrites whose payload ends outside the buffer: those whose bytes lie inside are done, then the fault (R97, D9). -/
theorem writeRegs_overread {s : State} (quiet : s.env.quiet = true) (start : Word16) {n i : Nat} (frame : 8 ≤ s.ctx.bufCap)
    (low : 7 + 2 * i ≤ s.ctx.bufCap) (high : s.ctx.bufCap ≤ 6 + 2 * (i + n)) :
    ∃ (u : State) (ws : List (Word16 × Word16)), writeRegs start n i s = .error (raiseFault (.bufOverread s.ctx.bufCap) u) ∧
      i + ws.length = (s.ctx.bufCap - 7) / 2 ∧ u.trace = s.trace ++ writeEvents start i ws ∧ BlockUnchanged s u := by
  induction n generalizing i s with
  | zero => omega
  | succ n ih =>
    obtain ends | inside := Nat.lt_or_ge (8 + 2 * i) s.ctx.bufCap |>.symm
    · obtain ⟨u, faults, block, trace⟩ := payloadValue_overread frame low ends
      exact ⟨u, [], by simp only [writeRegs, faults], by simp only [List.length_nil]; omega, by simp [trace, writeEvents], block⟩
    · obtain ⟨v, s1, value⟩ := payloadValue_of_inside inside
      obtain ⟨s2, write, quiet2⟩ := regWrite_of_quiet ((payloadValue_exchanged value).quiet quiet) (regAddr start i) v
      obtain ⟨stored, one⟩ := writeReg_exchanged value write
      have cap : s2.ctx.bufCap = s.ctx.bufCap := by rw [one.block.ctx]
      obtain ⟨u, ws, faults, length, trace, block⟩ := ih quiet2 (i := i + 1) (by omega) (by omega) (by omega)
      rw [cap] at faults length
      refine ⟨u, (v, stored) :: ws, by simp only [writeRegs, value, write, faults], by simp only [List.length_cons]; omega, ?_,
        one.block.trans block⟩
      rw [trace, one.trace, List.append_assoc]
      rfl

/-- Settles O16: the fault of the RegWrites is the fault of the request. -/
theorem writeMultipleFaultsPastTheBuffer : Obligations.WriteMultipleFaultsPastTheBuffer := by
  intro a start count byteCount h s quiet nonzero few double frame small
  obtain ⟨u, ws, faults, length, trace, block⟩ := writeRegs_overread quiet start (n := count.toNat) (i := 0) frame (by omega) (by omega)
  refine ⟨{ u with fault := some (.bufOverread s.ctx.bufCap) }, ws, ?_, by omega, trace, rfl, block.ctx, block.sup⟩
  exact execWriteMultiple_of_fault (writeCountLegal_iff.mpr ⟨nonzero, few, double⟩) faults

end Sys2Proof.Machine
end

section
/-! A register store that starts an operation while it answers (spec/70_reset_and_hazards.md section 4; log 15). -/

namespace Sys2Proof.Machine

/-- A transaction whose partner calls back ends the operation, after the events recorded before it. -/
theorem calledBack_after {s u : State} {events : List PortEvent} (block : BlockUnchanged s u) (trace : u.trace = s.trace ++ events)
    (request : PortRequest) : CalledBackAfter events request s (.fault (calledBack request u)) :=
  ⟨_, rfl, rfl, by simp [trace], block.ctx, block.sup⟩

theorem regRead_of_calls {s : State} {later : List (PartnerReply Word16)} (replies : s.env.readReplies = .calls :: later) (la : LogAddr) :
    regRead la s = .error (calledBack (.regRead la) (s.setEnv { s.env with readReplies := later, store := [] })) := by
  unfold regRead
  rw [replies]

theorem regWrite_of_calls {s : State} {later : List (PartnerReply Word16)} (replies : s.env.writeReplies = .calls :: later) (la : LogAddr)
    (v : Word16) :
    regWrite la v s = .error (calledBack (.regWrite la v) (s.setEnv { s.env with writeReplies := later, store := [] })) := by
  unfold regWrite
  rw [replies]

theorem regWrite_of_answer {s : State} {stored : Word16} {later : List (PartnerReply Word16)}
    (replies : s.env.writeReplies = .answers stored :: later) (la : LogAddr) (v : Word16) :
    ∃ u, regWrite la v s = .ok u ∧ BlockUnchanged s u ∧ u.trace = s.trace ++ [.regWrite la v stored] ∧ u.env.writeReplies = later := by
  refine ⟨(s.setEnv { s.env with writeReplies := later, store := storeAfter s.env.store la stored }).emit (.regWrite la v stored), ?_,
    ⟨rfl, rfl, rfl, rfl, rfl, rfl, rfl⟩, rfl, rfl⟩
  unfold regWrite
  rw [replies]

/-- RegReads of which the store answers some and then calls back. -/
theorem readRegs_of_calls {s : State} {answered : List Word16} {later : List (PartnerReply Word16)} {n : Nat}
    (replies : s.env.readReplies = answered.map .answers ++ .calls :: later) (more : answered.length < n) (start : Word16) (i : Nat) :
    ∃ u, readRegs start n i s = .error (calledBack (.regRead (regAddr start (i + answered.length))) u) ∧ BlockUnchanged s u ∧
      u.trace = s.trace ++ readEvents start i answered := by
  obtain ⟨m, rfl⟩ := Nat.exists_eq_add_of_le' (Nat.zero_lt_of_lt more)
  induction answered generalizing i s m with
  | nil =>
    refine ⟨s.setEnv { s.env with readReplies := later, store := [] }, ?_, ⟨rfl, rfl, rfl, rfl, rfl, rfl, rfl⟩, by simp [readEvents]⟩
    simp only [readRegs, regRead_of_calls replies]
    rfl
  | cons v answered ih =>
    obtain ⟨s1, first, replies'⟩ := regRead_of_answer replies (regAddr start i)
    have one := regRead_exchanged first
    have more' : answered.length < m := by simpa using more
    obtain ⟨m, rfl⟩ := Nat.exists_eq_add_of_le' (Nat.zero_lt_of_lt more')
    obtain ⟨u, faults, block, trace⟩ := ih replies' (i + 1) m more'
    refine ⟨u, ?_, one.block.trans block, by rw [trace, one.trace, List.append_assoc]; rfl⟩
    have position : i + 1 + answered.length = i + (v :: answered).length := by simp only [List.length_cons]; omega
    rw [readRegs, first]
    simp only [faults, position]

/-- RegWrites of which the store answers some and then calls back, the payload inside the buffer up to there. -/
theorem writeRegs_of_calls {s : State} {answered : List Word16} {later : List (PartnerReply Word16)} {n i : Nat}
    (replies : s.env.writeReplies = answered.map .answers ++ .calls :: later) (more : answered.length < n) (start : Word16)
    (room : 8 + 2 * (i + answered.length) < s.ctx.bufCap) :
    ∃ (u : State) (ws : List (Word16 × Word16)) (v : Word16), ws.map Prod.snd = answered ∧
      writeRegs start n i s = .error (calledBack (.regWrite (regAddr start (i + answered.length)) v) u) ∧ BlockUnchanged s u ∧
      u.trace = s.trace ++ writeEvents start i ws := by
  obtain ⟨m, rfl⟩ := Nat.exists_eq_add_of_le' (Nat.zero_lt_of_lt more)
  induction answered generalizing i s m with
  | nil =>
    obtain ⟨v, s1, value⟩ := payloadValue_of_inside (i := i) (s := s) room
    obtain ⟨block, env, trace⟩ := payloadValue_ok value
    have calls : s1.env.writeReplies = .calls :: later := by rw [env]; exact replies
    refine ⟨s1.setEnv { s1.env with writeReplies := later, store := [] }, [], v, rfl, ?_, block.trans ⟨rfl, rfl, rfl, rfl, rfl, rfl, rfl⟩,
      by simp [writeEvents, trace]⟩
    simp only [writeRegs, value, regWrite_of_calls calls]
    rfl
  | cons stored answered ih =>
    simp only [List.length_cons] at room
    obtain ⟨v, s1, value⟩ := payloadValue_of_inside (i := i) (s := s) (by omega)
    obtain ⟨block1, env, trace1⟩ := payloadValue_ok value
    obtain ⟨s2, write, block2, trace2, replies'⟩ :=
      regWrite_of_answer (s := s1) (by rw [env]; exact replies) (regAddr start i) v
    have more' : answered.length < m := by simpa using more
    obtain ⟨m, rfl⟩ := Nat.exists_eq_add_of_le' (Nat.zero_lt_of_lt more')
    have block := block1.trans block2
    obtain ⟨u, ws, w, answers, faults, blockRest, trace⟩ := ih (i := i + 1) replies' (by rw [block.ctx]; omega) m more'
    refine ⟨u, (v, stored) :: ws, w, by rw [List.map_cons, answers], ?_, block.trans blockRest,
      by rw [trace, trace2, trace1, List.append_assoc]; rfl⟩
    have position : i + 1 + answered.length = i + (stored :: answered).length := by simp only [List.length_cons]; omega
    rw [writeRegs, value]
    simp only [write, faults, position]

/-- A read request whose store calls back. -/
theorem readRequest_of_calls {s : State} {answered : List Word16} {later : List (PartnerReply Word16)} {count : Word16}
    (replies : s.env.readReplies = answered.map .answers ++ .calls :: later) (more : answered.length < count.toNat)
    (few : count.toNat ≤ 125) (fc : Byte) (start : Word16) :
    CalledBackAfter (readEvents start 0 answered) (.regRead (regAddr start answered.length)) s (readRequest fc start count s) := by
  obtain ⟨u, faults, block, trace⟩ := readRegs_of_calls replies more start 0
  rw [readRequest, if_pos (readCountLegal_iff.mpr ⟨Nat.zero_lt_of_lt more, few⟩), faults, Nat.zero_add]
  exact calledBack_after block trace _

/-- Settles O50: a transaction the store does not answer ends the register loop, and with it the request. -/
theorem partnerCallingBackFaults : Obligations.PartnerCallingBackFaults := by
  intro a start count l h s answered later
  refine ⟨fun replies => ?_, fun replies more few => ?_, fun replies more few double room => ?_⟩
  · rw [exec, execWriteSingle, regWrite_of_calls replies]
    exact calledBack_after ⟨rfl, rfl, rfl, rfl, rfl, rfl, rfl⟩ (List.append_nil _).symm _
  · exact ⟨readRequest_of_calls replies more few 0x03#8 start, readRequest_of_calls replies more few 0x04#8 start⟩
  · obtain ⟨u, ws, v, answers, faults, block, trace⟩ := writeRegs_of_calls (i := 0) replies more start (by rwa [Nat.zero_add])
    refine ⟨ws, v, answers, ?_⟩
    rw [exec, execWriteMultiple_of_fault (writeCountLegal_iff.mpr ⟨Nat.zero_lt_of_lt more, few, double⟩) faults, Nat.zero_add]
    exact calledBack_after block trace _

end Sys2Proof.Machine
end

section
/-! Bytes in the frame buffer (spec/20_memory.md rule R35; spec/10_state.md rules R21, R33). -/

namespace Sys2Proof.Machine

/-- What the buffer reads after bytes have been written from index `i` on. -/
theorem read_writeBytes (m : Memory) (i : Nat) (bytes : List Byte) (a : Nat) :
    (writeBytes m i bytes).read? a = if i ≤ a ∧ a < i + bytes.length then bytes[a - i]? else m.read? a := by
  induction bytes generalizing m i with
  | nil => simp [writeBytes]
  | cons b bytes ih =>
    rw [writeBytes, ih]
    obtain before | rfl | after := Nat.lt_trichotomy a i
    · rw [if_neg (by omega), if_neg (by omega), Memory.read_write_ne _ _ before.ne]
    · rw [if_neg (by omega), if_pos (by simp), Memory.read_write_same, Nat.sub_self, List.getElem?_cons_zero]
    · have shift : a - i = a - (i + 1) + 1 := by omega
      rw [Memory.read_write_ne _ _ after.ne', shift, List.getElem?_cons_succ, List.length_cons]
      exact if_congr (by omega) rfl rfl

theorem read_writeBytes_inside (m : Memory) (bytes : List Byte) {a : Nat} (h : a < bytes.length) :
    (writeBytes m 0 bytes).read? a = some bytes[a] := by
  rw [read_writeBytes, if_pos (by omega), Nat.sub_zero, List.getElem?_eq_getElem h]

theorem read_writeBytes_beyond (m : Memory) (bytes : List Byte) {a : Nat} (h : bytes.length ≤ a) :
    (writeBytes m 0 bytes).read? a = m.read? a := by
  rw [read_writeBytes, if_neg (by omega)]

/-- A buffer that holds a frame's bytes holds the frame (R58). -/
theorem bufFrame_of_writeBytes {s : State} {m : Memory} {f : Frame} (h : s.ctx.buf = writeBytes m 0 f.bytes) : bufFrame s = f := by
  have byte : ∀ (a : Nat) (ha : a < 8), bufByte s a = f.bytes[a] := by
    intro a ha
    rw [bufByte, h, read_writeBytes_inside m f.bytes ha, Option.getD_some]
  rw [bufFrame, byte 0 (by decide), byte 1 (by decide), byte 2 (by decide), byte 3 (by decide), byte 4 (by decide), byte 5 (by decide),
    byte 6 (by decide), byte 7 (by decide)]
  rfl

end Sys2Proof.Machine
end

section
/-! What one byte does to the device context, and to everything else (spec/41_frame_assembler.md). -/

namespace Sys2Proof.Machine

/-! ### The device context after a byte -/

/-- The device context after a byte fed in a state but PROCESSING, where the frame it may complete returns to IDLE (R79 to R86). -/
def Ctx.fed (c : Ctx) (b : Byte) : Ctx :=
  let d := { c with crc := crc16Update c.crc b }
  match c.asm with
  | .idle => if b = c.devAddr then { d with asm := .receiving, len := 1, buf := c.buf.write 0 b } else d
  | .receiving =>
    if c.len < c.bufCap then
      if c.len + 1 = 8 then { d with asm := .idle, len := 0, buf := c.buf.write c.len b }
      else { d with len := c.len + 1, buf := c.buf.write c.len b }
    else { d with asm := .idle, len := 0 }
  | _ => { d with asm := .idle, len := 0 }

/-- The device context after a byte of a chunk: a closed context drops it (R78). -/
def Ctx.received (c : Ctx) (b : Byte) : Ctx := if c.isOpen then c.fed b else c

/-- The next byte fed completes a frame of eight bytes (R82). -/
def Ctx.completing (c : Ctx) : Prop := c.asm = .receiving ∧ c.len < c.bufCap ∧ c.len + 1 = 8

/-- Replace the device context. -/
def State.setCtx (s : State) (c : Ctx) : State := { s with ctx := c }

section Fed
variable {c : Ctx} {b : Byte}

theorem Ctx.fed_of_address (idle : c.asm = .idle) (address : b = c.devAddr) :
    c.fed b = { c with crc := crc16Update c.crc b, asm := .receiving, len := 1, buf := c.buf.write 0 b } := by
  simp only [Ctx.fed, idle, if_pos address]

theorem Ctx.fed_of_skipped (idle : c.asm = .idle) (other : b ≠ c.devAddr) : c.fed b = { c with crc := crc16Update c.crc b } := by
  simp only [Ctx.fed, idle, if_neg other]

theorem Ctx.fed_of_stored (receiving : c.asm = .receiving) (room : c.len < c.bufCap) (short : c.len ≠ 7) :
    c.fed b = { c with crc := crc16Update c.crc b, len := c.len + 1, buf := c.buf.write c.len b } := by
  simp only [Ctx.fed, receiving, if_pos room, Nat.succ_inj, if_neg short]

theorem Ctx.fed_of_completing (h : c.completing) :
    c.fed b = { c with crc := crc16Update c.crc b, asm := .idle, len := 0, buf := c.buf.write c.len b } := by
  obtain ⟨receiving, room, full⟩ := h
  simp only [Ctx.fed, receiving, if_pos room, if_pos full]

theorem Ctx.fed_of_overflow (receiving : c.asm = .receiving) (full : c.bufCap ≤ c.len) :
    c.fed b = { c with crc := crc16Update c.crc b, asm := .idle, len := 0 } := by
  simp only [Ctx.fed, receiving, if_neg (Nat.not_lt.mpr full)]

theorem Ctx.fed_of_illegal (illegal : c.asm = .illegal) : c.fed b = { c with crc := crc16Update c.crc b, asm := .idle, len := 0 } := by
  simp only [Ctx.fed, illegal]

/-- Whatever a byte does, it updates the accumulator and leaves the configuration alone (R80). -/
theorem Ctx.fed_config (c : Ctx) (b : Byte) : (c.fed b).crc = crc16Update c.crc b ∧ (c.fed b).isOpen = c.isOpen ∧
    (c.fed b).devAddr = c.devAddr ∧ (c.fed b).bufCap = c.bufCap := by
  unfold Ctx.fed
  split
  · split <;> exact ⟨rfl, rfl, rfl, rfl⟩
  · split_ifs <;> exact ⟨rfl, rfl, rfl, rfl⟩
  · exact ⟨rfl, rfl, rfl, rfl⟩

end Fed

/-! ### One byte -/

/-- Feeding a byte that completes no frame changes the device context only. -/
theorem feedByte_of_silent {s : State} (b : Byte) (noFrame : ¬ s.ctx.completing) (notProcessing : s.ctx.asm ≠ .processing) :
    feedByte b s = .next (s.setCtx (s.ctx.fed b)) := by
  cases state : s.ctx.asm with
  | idle =>
    simp only [feedByte, state, idleByte]
    by_cases address : b = s.ctx.devAddr
    · rw [Ctx.fed_of_address state address, if_pos (by exact address)]; rfl
    · rw [Ctx.fed_of_skipped state address, if_neg (by exact address)]; rfl
  | receiving =>
    simp only [feedByte, state, recvByte, State.setCrc_ctx]
    by_cases room : s.ctx.len < s.ctx.bufCap
    · have short : s.ctx.len ≠ 7 := fun full => noFrame ⟨state, room, by rw [full]⟩
      rw [Ctx.fed_of_stored state room short, if_pos room, if_neg (by simp only [Config.frameLen]; omega)]
      rfl
    · rw [Ctx.fed_of_overflow state (Nat.not_lt.mp room), if_neg room]; rfl
  | processing => exact absurd state notProcessing
  | illegal => rw [Ctx.fed_of_illegal state]; simp only [feedByte, state]; rfl

/-- Feeding the byte that completes a frame stores it and validates the frame (R82). -/
theorem feedByte_of_completing {s : State} (b : Byte) (h : s.ctx.completing) :
    feedByte b s = validate ((s.setCrc (crc16Update s.ctx.crc b)).putByte s.ctx.len b) := by
  obtain ⟨receiving, room, full⟩ := h
  simp only [feedByte, receiving, recvByte, State.setCrc_ctx, if_pos room]
  exact if_pos full

/-- A byte that meets PROCESSING faults after the accumulator (R80, R85). -/
theorem feedByte_of_processing {s : State} (b : Byte) (processing : s.ctx.asm = .processing) :
    feedByte b s = .fault (raiseFault .reentrant (s.setCrc (crc16Update s.ctx.crc b))) := by
  simp only [feedByte, processing]

/-- The return to IDLE of a frame just completed is what `Ctx.fed` says. -/
theorem endDispatch_putByte {s : State} (b : Byte) (h : s.ctx.completing) :
    endDispatch ((s.setCrc (crc16Update s.ctx.crc b)).putByte s.ctx.len b) = s.setCtx (s.ctx.fed b) := by
  rw [Ctx.fed_of_completing h]
  rfl

/-! ### What a byte leaves alone -/

/-- What bytes of a chunk that complete leave alone, and the events of the requests among them. -/
structure Fed (s t : State) : Prop where
  /-- The recovery state. -/
  sup : t.sup = s.sup
  /-- The fault mark. -/
  fault : t.fault = s.fault
  /-- The refusal mark. -/
  refusal : t.refusal = s.refusal
  /-- The busy mark. -/
  busy : t.busy = s.busy
  /-- The inbox. -/
  inbox : t.inbox = s.inbox
  /-- The byte source is not asked. -/
  rearm : t.env.rearmReplies = s.env.rearmReplies
  /-- The known registers stay in canonical form. -/
  storeWf : cellsWf s.env.store = true → cellsWf t.env.store = true
  /-- A quiet environment stays so. -/
  quiet : s.env.quiet = true → t.env.quiet = true
  /-- The events are recorded, none of them an RxRearm. -/
  trace : ∃ events, t.trace = s.trace ++ events ∧ events.all (fun e => decide (e ≠ .rxRearm)) = true

namespace Fed
variable {s t u : State}

theorem trans (first : Fed s t) (second : Fed t u) : Fed s u := by
  obtain ⟨es, trace, none⟩ := first.trace
  obtain ⟨es', trace', none'⟩ := second.trace
  exact ⟨second.sup.trans first.sup, second.fault.trans first.fault, second.refusal.trans first.refusal, second.busy.trans first.busy,
    second.inbox.trans first.inbox, second.rearm.trans first.rearm, second.storeWf ∘ first.storeWf, second.quiet ∘ first.quiet,
    es ++ es', by rw [trace', trace, List.append_assoc], by rw [List.all_append, none, none']; rfl⟩

/-- A change of the device context or of the bytes not fed yet is no change of what `Fed` speaks of. -/
theorem setCtx (s : State) (c : Ctx) : Fed s (s.setCtx c) :=
  ⟨rfl, rfl, rfl, rfl, rfl, rfl, id, id, [], (List.append_nil _).symm, rfl⟩

theorem setRest (s : State) (bytes : List Byte) : Fed s (s.setRest bytes) :=
  ⟨rfl, rfl, rfl, rfl, rfl, rfl, id, id, [], (List.append_nil _).symm, rfl⟩

end Fed

theorem isRequest_toInstr (f : Frame) : isRequest f.toInstr = true := by
  unfold Frame.toInstr
  split_ifs <;> rfl

/-- A request that completes, among the bytes of a chunk. -/
theorem request_fed {i : Instr} (request : isRequest i = true) {s t : State} (h : exec i s = .next t) : BlockUnchanged s t ∧ Fed s t := by
  obtain ⟨r, u, events, -, sent, kind, exchanged, -⟩ := request_next request h
  obtain ⟨block, n, -, trace, env⟩ := send_next sent
  have unchanged := exchanged.block.trans block
  refine ⟨unchanged, unchanged.sup, unchanged.fault, unchanged.refusal, unchanged.busy, unchanged.inbox, ?_, fun wf => ?_, fun quiet => ?_,
    events ++ [.transmit (replyBytes u r.fc r.payload) n], ?_, ?_⟩
  · rw [env]; exact exchanged.rearm
  · rw [env]; exact exchanged.store.wf wf
  · obtain ⟨reads, writes, sink, rearm⟩ := (quiet_iff _).mp (exchanged.quiet quiet)
    rw [env]
    exact (quiet_iff _).mpr ⟨reads, writes, all_tail sink, rearm⟩
  · rw [trace, exchanged.trace, List.append_assoc]
  · rw [List.all_append, kind.all (by simp) (by simp)]
    simp

/-- What VALIDATE does when it completes: the assembler idle and empty, and what a request does elsewhere. -/
theorem validate_next {s t : State} (h : validate s = .next t) : t.ctx = { s.ctx with asm := .idle, len := 0 } ∧ Fed s t ∧ t.rest = s.rest := by
  by_cases crc : crc16 (bufFrame s).body = (bufFrame s).rxCrc
  · rw [validate_of_match crc] at h
    obtain ⟨u, ran, ends⟩ := andThen_eq_next h
    cases ends
    obtain ⟨block, fed⟩ := request_fed (isRequest_toInstr _) ran
    refine ⟨?_, (Fed.setCtx s _).trans (fed.trans (Fed.setCtx u _)), block.rest⟩
    show { u.ctx with asm := .idle, len := 0 } = { s.ctx with asm := .idle, len := 0 }
    rw [block.ctx]
    rfl
  · rw [validate_of_mismatch crc] at h
    cases h
    exact ⟨rfl, Fed.setCtx s _, rfl⟩

/-- What a fed byte does when it completes: to the device context what `Ctx.fed` says, and what `Fed` says elsewhere. -/
theorem feedByte_next {b : Byte} {s t : State} (h : feedByte b s = .next t) : t.ctx = s.ctx.fed b ∧ Fed s t ∧ t.rest = s.rest := by
  by_cases completing : s.ctx.completing
  · rw [feedByte_of_completing b completing] at h
    obtain ⟨ctx, fed, rest⟩ := validate_next h
    refine ⟨?_, (Fed.setCtx s _).trans fed, rest⟩
    rw [ctx, Ctx.fed_of_completing completing]
    rfl
  · by_cases processing : s.ctx.asm = .processing
    · rw [feedByte_of_processing b processing] at h; cases h
    · rw [feedByte_of_silent b completing processing] at h
      cases h
      exact ⟨rfl, Fed.setCtx s _, rfl⟩

theorem chunkByte_next {b : Byte} {s t : State} (h : chunkByte b s = .next t) : t.ctx = s.ctx.received b ∧ Fed s t ∧ t.rest = s.rest := by
  unfold chunkByte at h
  unfold Ctx.received
  split at h
  · next isOpen => rw [if_pos isOpen]; exact feedByte_next h
  · next closed => cases h; rw [if_neg closed]; exact ⟨rfl, Fed.setCtx _ _, rfl⟩

/-- What the bytes of a chunk do when they complete. -/
theorem feedChunk_next {bytes : List Byte} {s t : State} (h : feedChunk bytes s = .next t) :
    t.ctx = bytes.foldl Ctx.received s.ctx ∧ Fed s t ∧ (s.rest = bytes → t.rest = []) := by
  induction bytes generalizing s with
  | nil => cases h; exact ⟨rfl, Fed.setCtx _ _, id⟩
  | cons b bytes ih =>
    obtain ⟨u, one, more⟩ := andThen_eq_next h
    obtain ⟨ctx, fed, rest⟩ := chunkByte_next one
    obtain ⟨ctx', fed', rest'⟩ := ih more
    exact ⟨by rw [ctx', ctx]; rfl, (Fed.setRest s bytes).trans (fed.trans fed'), fun _ => rest' rest⟩

/-! ### Chunks that complete no frame -/

/-- None of the bytes, fed one after the other, completes a frame or meets PROCESSING. -/
def Ctx.Silent : Ctx → List Byte → Prop
  | _, [] => True
  | c, b :: bytes => (c.isOpen = true → ¬ c.completing ∧ c.asm ≠ .processing) ∧ (c.received b).Silent bytes

theorem chunkByte_of_silent {s : State} (b : Byte) (silent : s.ctx.isOpen = true → ¬ s.ctx.completing ∧ s.ctx.asm ≠ .processing) :
    chunkByte b s = .next (s.setCtx (s.ctx.received b)) := by
  unfold chunkByte Ctx.received
  split
  · next isOpen => exact feedByte_of_silent b (silent isOpen).1 (silent isOpen).2
  · rfl

/-- Silent bytes at the front of a chunk change the device context only. -/
theorem feedChunk_of_silent {front : List Byte} {s : State} (silent : s.ctx.Silent front) (back : List Byte) :
    feedChunk (front ++ back) (s.setRest (front ++ back)) = feedChunk back ((s.setCtx (front.foldl Ctx.received s.ctx)).setRest back) := by
  induction front generalizing s with
  | nil => rfl
  | cons b front ih =>
    obtain ⟨first, later⟩ := silent
    show andThen (chunkByte b (s.setRest (front ++ back))) (feedChunk (front ++ back)) = _
    rw [chunkByte_of_silent b (by exact first)]
    exact ih (s := s.setCtx (s.ctx.received b)) later

/-- A closed context drops every byte (R78, D21). -/
theorem Ctx.foldl_received_of_closed {c : Ctx} (closed : c.isOpen = false) (bytes : List Byte) :
    c.Silent bytes ∧ bytes.foldl Ctx.received c = c := by
  have drops : ∀ b, c.received b = c := fun b => if_neg (by simp [closed])
  induction bytes with
  | nil => exact ⟨trivial, rfl⟩
  | cons b bytes ih => exact ⟨⟨by simp [closed], by rw [drops]; exact ih.1⟩, by rw [List.foldl_cons, drops]; exact ih.2⟩

/-- An idle assembler skips bytes that are not the device address (R81). -/
theorem Ctx.foldl_received_of_skipped {c : Ctx} {bytes : List Byte} (isOpen : c.isOpen = true) (idle : c.asm = .idle)
    (others : ∀ b ∈ bytes, b ≠ c.devAddr) :
    c.Silent bytes ∧ bytes.foldl Ctx.received c = { c with crc := bytes.foldl crc16Update c.crc } := by
  induction bytes generalizing c with
  | nil => exact ⟨trivial, rfl⟩
  | cons b bytes ih =>
    have skipped : c.received b = { c with crc := crc16Update c.crc b } :=
      (if_pos isOpen).trans (Ctx.fed_of_skipped idle (others b List.mem_cons_self))
    obtain ⟨silent, final⟩ := ih (c := c.received b) (by rw [skipped]; exact isOpen) (by rw [skipped]; exact idle)
      (by rw [skipped]; exact fun b mem => others b (List.mem_cons_of_mem _ mem))
    refine ⟨⟨fun _ => ⟨fun h => ?_, by rw [idle]; decide⟩, silent⟩, by rw [List.foldl_cons, final, skipped]; rfl⟩
    exact absurd (idle.symm.trans h.1) (by decide)

/-- RECEIVING stores bytes up to seven (R82). -/
theorem Ctx.foldl_received_of_stored {c : Ctx} {bytes : List Byte} (isOpen : c.isOpen = true) (receiving : c.asm = .receiving)
    (capacity : 8 ≤ c.bufCap) (short : c.len + bytes.length ≤ 7) :
    c.Silent bytes ∧ bytes.foldl Ctx.received c =
      { c with crc := bytes.foldl crc16Update c.crc, len := c.len + bytes.length, buf := writeBytes c.buf c.len bytes } := by
  induction bytes generalizing c with
  | nil => exact ⟨trivial, rfl⟩
  | cons b bytes ih =>
    rw [List.length_cons] at short
    have notFull : c.len ≠ 7 := by omega
    have stored : c.received b = { c with crc := crc16Update c.crc b, len := c.len + 1, buf := c.buf.write c.len b } :=
      (if_pos isOpen).trans (Ctx.fed_of_stored receiving (by omega) notFull)
    obtain ⟨silent, final⟩ := ih (c := c.received b) (by rw [stored]; exact isOpen) (by rw [stored]; exact receiving)
      (by rw [stored]; exact capacity) (by rw [stored]; show c.len + 1 + bytes.length ≤ 7; omega)
    refine ⟨⟨fun _ => ⟨fun h => notFull (Nat.succ.inj h.2.2), by rw [receiving]; decide⟩, silent⟩, ?_⟩
    rw [List.foldl_cons, final, stored, List.length_cons]
    simp only [List.foldl_cons, writeBytes, Nat.add_assoc, Nat.add_comm 1]

/-- An idle assembler holds up to seven bytes that begin with the device address (R81, R82). -/
theorem Ctx.foldl_received_of_started {c : Ctx} {bytes : List Byte} (isOpen : c.isOpen = true) (idle : c.asm = .idle)
    (capacity : 8 ≤ c.bufCap) (short : bytes.length ≤ 6) :
    c.Silent (c.devAddr :: bytes) ∧ (c.devAddr :: bytes).foldl Ctx.received c =
      { c with
        crc := (c.devAddr :: bytes).foldl crc16Update c.crc
        asm := .receiving
        len := bytes.length + 1
        buf := writeBytes c.buf 0 (c.devAddr :: bytes) } := by
  have started : c.received c.devAddr =
      { c with crc := crc16Update c.crc c.devAddr, asm := .receiving, len := 1, buf := c.buf.write 0 c.devAddr } :=
    (if_pos isOpen).trans (Ctx.fed_of_address idle rfl)
  obtain ⟨silent, final⟩ := Ctx.foldl_received_of_stored (c := c.received c.devAddr) (bytes := bytes) (by rw [started]; exact isOpen)
    (by rw [started]) (by rw [started]; exact capacity) (by rw [started]; show 1 + bytes.length ≤ 7; omega)
  refine ⟨⟨fun _ => ⟨fun h => ?_, by rw [idle]; decide⟩, silent⟩, ?_⟩
  · exact absurd (idle.symm.trans h.1) (by decide)
  · rw [List.foldl_cons, final, started]
    simp only [List.foldl_cons, writeBytes, Nat.add_comm 1]

end Sys2Proof.Machine
end

section
/-! DELIVER in a quiet environment, byte by byte (spec/41_frame_assembler.md). -/

namespace Sys2Proof.Machine

/-! ### The beginning and the end of a DELIVER -/

/-- The state a DELIVER feeds its chunk in: busy, activity marked (R78). -/
def State.delivering (s : State) (now : Millis) : State := (s.setBusy true).touch now

/-- DELIVER of a chunk that is not empty (R78). -/
theorem execDeliver_of_ne_nil {now : Millis} {bytes : List Byte} {s : State} (notBusy : s.busy = false) (nonempty : bytes ≠ []) :
    execDeliver now bytes s = andThen (feedChunk bytes ((s.delivering now).setRest bytes)) endDeliver := by
  rw [execDeliver, unlessBusy_of_not_busy notBusy]
  cases bytes with
  | nil => exact absurd rfl nonempty
  | cons b bytes => rfl

/-- Settles O27. -/
theorem emptyDeliveryChangesNothing : Obligations.EmptyDeliveryChangesNothing := by
  intro now s notBusy
  rw [exec, execDeliver, unlessBusy_of_not_busy notBusy]
  rfl

/-- The end of a DELIVER that completes: one RxRearm, not busy. -/
theorem endDeliver_next {s t : State} (h : endDeliver s = .next t) : ∃ u, rxRearm s = .ok u ∧ t = u.setBusy false := by
  unfold endDeliver at h
  split at h
  · cases h
  · next u rearm => cases h; exact ⟨u, rearm, rfl⟩

theorem endDeliver_of_rearm {s u : State} (rearm : rxRearm s = .ok u) : endDeliver s = .next (u.setBusy false) := by
  simp only [endDeliver, rearm]

/-- A DELIVER that completes: nothing for no bytes, else the chunk and the end. -/
theorem execDeliver_next {now : Millis} {bytes : List Byte} {s t : State} (h : execDeliver now bytes s = .next t) :
    s.busy = false ∧ (bytes = [] ∧ t = s ∨
      ∃ u, feedChunk bytes ((s.delivering now).setRest bytes) = .next u ∧ endDeliver u = .next t) := by
  obtain ⟨notBusy, -⟩ := unlessBusy_next h
  refine ⟨notBusy, ?_⟩
  cases bytes with
  | nil => exact .inl ⟨rfl, Host.Outcome.next.inj (h.symm.trans (emptyDeliveryChangesNothing now s notBusy))⟩
  | cons b bytes =>
    rw [execDeliver_of_ne_nil notBusy (List.cons_ne_nil b bytes)] at h
    exact .inr (andThen_eq_next h)

/-- A DELIVER whose bytes change nothing but the device context. -/
theorem deliver_quietly {now : Millis} {bytes : List Byte} {s : State} {c : Ctx} (notBusy : s.busy = false) (quiet : s.env.quiet = true)
    (nonempty : bytes ≠ []) (fed : feedChunk bytes ((s.delivering now).setRest bytes) = .next (((s.delivering now).setCtx c).setRest [])) :
    ∃ t, exec (.deliver now bytes) s = .next t ∧ DeliveredQuietly now s t ∧ t.ctx = c := by
  obtain ⟨u, rearm, -⟩ := rxRearm_of_quiet (s := ((s.delivering now).setCtx c).setRest []) quiet
  obtain ⟨block, draws, trace, env⟩ := rxRearm_ok rearm
  refine ⟨u.setBusy false, ?_, ⟨block.sup, trace, env, block.fault, block.refusal, rfl, block.rest, draws, block.inbox⟩, block.ctx⟩
  rw [exec, execDeliver_of_ne_nil notBusy nonempty, fed]
  exact endDeliver_of_rearm rearm

/-- A DELIVER whose bytes complete no frame and meet no PROCESSING. -/
theorem deliver_of_silent {now : Millis} {bytes : List Byte} {s : State} (notBusy : s.busy = false) (quiet : s.env.quiet = true)
    (nonempty : bytes ≠ []) (silent : s.ctx.Silent bytes) :
    ∃ t, exec (.deliver now bytes) s = .next t ∧ DeliveredQuietly now s t ∧ t.ctx = bytes.foldl Ctx.received s.ctx := by
  refine deliver_quietly notBusy quiet nonempty ?_
  have fed := feedChunk_of_silent (s := s.delivering now) silent []
  rwa [List.append_nil] at fed

/-- Settles O28. -/
theorem closedContextDropsTheChunk : Obligations.ClosedContextDropsTheChunk := by
  intro now bytes s notBusy quiet closed nonempty
  obtain ⟨silent, final⟩ := Ctx.foldl_received_of_closed closed bytes
  obtain ⟨t, ends, quietly, ctx⟩ := deliver_of_silent (now := now) notBusy quiet nonempty silent
  exact ⟨t, ends, ctx.trans final, quietly⟩

/-- Settles O30. -/
theorem streamWithoutTheAddressIsSkipped : Obligations.StreamWithoutTheAddressIsSkipped := by
  intro now bytes s notBusy quiet isOpen idle nonempty others
  obtain ⟨silent, final⟩ := Ctx.foldl_received_of_skipped isOpen idle others
  obtain ⟨t, ends, quietly, ctx⟩ := deliver_of_silent (now := now) notBusy quiet nonempty silent
  exact ⟨t, ends, quietly, ctx.trans final⟩

/-- The bytes from index 0 on of a buffer they were written to. -/
theorem map_read_writeBytes (m : Memory) (bytes : List Byte) :
    (List.range bytes.length).map (fun i => (writeBytes m 0 bytes).read? i) = bytes.map some := by
  refine List.ext_getElem (by simp) fun i _ inside => ?_
  have hi : i < bytes.length := by simpa using inside
  rw [List.getElem_map, List.getElem_range, List.getElem_map, read_writeBytes_inside m bytes hi]

/-- Settles O31: the bytes written are those held. -/
theorem shortRequestIsHeld : Obligations.ShortRequestIsHeld := by
  intro now bytes s notBusy quiet isOpen idle capacity short
  obtain ⟨silent, final⟩ := Ctx.foldl_received_of_started isOpen idle capacity short
  obtain ⟨t, ends, quietly, ctx⟩ := deliver_of_silent (now := now) notBusy quiet (List.cons_ne_nil _ _) silent
  rw [final] at ctx
  refine ⟨t, ends, quietly, by rw [ctx], by rw [ctx], ?_, fun a beyond => ?_⟩
  · rw [ctx]
    exact map_read_writeBytes s.ctx.buf (s.ctx.devAddr :: bytes)
  · rw [ctx]
    exact read_writeBytes_beyond _ _ beyond

/-! ### A whole frame -/

/-- The device context that holds a whole frame being dispatched. -/
def Ctx.holding (c : Ctx) (f : Frame) (a : AsmState) (len : Nat) : Ctx :=
  { c with asm := a, len := len, crc := f.bytes.foldl crc16Update c.crc, buf := writeBytes c.buf 0 f.bytes }

theorem feedChunk_one (b : Byte) (s : State) : feedChunk [b] s = chunkByte b (s.setRest []) := by
  show andThen (chunkByte b (s.setRest [])) .next = _
  cases chunkByte b (s.setRest []) <;> rfl

theorem chunkByte_of_completing {s : State} (b : Byte) (isOpen : s.ctx.isOpen = true) (h : s.ctx.completing) :
    chunkByte b s = validate ((s.setCrc (crc16Update s.ctx.crc b)).putByte s.ctx.len b) := by
  rw [chunkByte, if_pos isOpen, feedByte_of_completing b h]

/-- The first seven bytes of a frame are stored; the eighth validates it (R81, R82). -/
theorem feedChunk_of_frame {f : Frame} {s : State} (isOpen : s.ctx.isOpen = true) (idle : s.ctx.asm = .idle) (capacity : 8 ≤ s.ctx.bufCap)
    (addr : f.addr = s.ctx.devAddr) :
    feedChunk f.bytes (s.setRest f.bytes) = validate ((s.setCtx (s.ctx.holding f .receiving 8)).setRest []) := by
  obtain ⟨a, fc, p0, p1, p2, p3, crcLo, crcHi⟩ := f
  obtain rfl : a = s.ctx.devAddr := addr
  obtain ⟨silent, seven⟩ := Ctx.foldl_received_of_started (bytes := [fc, p0, p1, p2, p3, crcLo]) isOpen idle capacity (by simp)
  have stored := feedChunk_of_silent silent [crcHi]
  rw [seven, feedChunk_one] at stored
  exact stored.trans (chunkByte_of_completing crcHi isOpen ⟨rfl, capacity, rfl⟩)

theorem frame_bytes_ne_nil (f : Frame) : f.bytes ≠ [] := List.cons_ne_nil _ _

/-- The buffer that holds a frame reads as before beyond its bytes. -/
theorem Ctx.holding_read (c : Ctx) (f : Frame) (a : AsmState) (len : Nat) {i : Nat} (beyond : 8 ≤ i) :
    (c.holding f a len).buf.read? i = c.buf.read? i := read_writeBytes_beyond c.buf f.bytes beyond

/-- Settles O32: the eighth byte discards the frame. -/
theorem mismatchedFrameIsAbsorbed : Obligations.MismatchedFrameIsAbsorbed := by
  intro now f s notBusy quiet isOpen idle capacity addr crc
  have fed : feedChunk f.bytes ((s.delivering now).setRest f.bytes) =
      .next (((s.delivering now).setCtx (s.ctx.holding f .idle 0)).setRest []) := by
    rw [feedChunk_of_frame (s := s.delivering now) isOpen idle capacity addr, validate_of_mismatch]
    · rfl
    · rw [bufFrame_of_writeBytes (m := s.ctx.buf) (f := f) rfl]
      exact crc
  obtain ⟨t, ends, quietly, ctx⟩ := deliver_quietly notBusy quiet (frame_bytes_ne_nil f) fed
  refine ⟨t, ends, quietly, by rw [ctx]; rfl, by rw [ctx]; rfl, by rw [ctx]; exact isOpen, by rw [ctx]; rfl, by rw [ctx]; rfl, fun a beyond => ?_⟩
  rw [ctx, Ctx.holding_read s.ctx f .idle 0 beyond]

/-- Two continuations that agree on the next state answered give the same outcome. -/
theorem andThen_congr {r : Result} {f g : State → Result} (h : ∀ t, r = .next t → f t = g t) : andThen r f = andThen r g := by
  cases r with
  | next t => exact h t rfl
  | fault e => rfl
  | refused e => rfl

/-- The state in which a DELIVER that began in `s` dispatches the frame `f` of its last byte (log 2). -/
def State.dispatching (s : State) (now : Millis) (f : Frame) : State :=
  ((s.delivering now).setCtx (s.ctx.holding f .processing 8)).setRest []

theorem bufFrame_dispatching (s : State) (now : Millis) (f : Frame) : bufFrame (s.dispatching now f) = f :=
  bufFrame_of_writeBytes (m := s.ctx.buf) rfl

/-- Settles O33: the eighth byte dispatches the frame, and so does a step from PROCESSING. -/
theorem deliveredFrameRunsItsInstruction : Obligations.DeliveredFrameRunsItsInstruction := by
  intro now f s notBusy isOpen idle capacity addr crc
  have deliver : exec (.deliver now f.bytes) s =
      andThen (exec f.toInstr (s.dispatching now f)) fun t => endDeliver (endDispatch t) := by
    have held : bufFrame (((s.delivering now).setCtx (s.ctx.holding f .receiving 8)).setRest []) = f :=
      bufFrame_of_writeBytes (m := s.ctx.buf) rfl
    rw [exec, execDeliver_of_ne_nil notBusy (frame_bytes_ne_nil f), feedChunk_of_frame (s := s.delivering now) isOpen idle capacity addr,
      validate_of_match, andThen_assoc]
    · exact congrArg (fun g : Frame => andThen (exec g.toInstr _) _) held
    · exact (congrArg (fun g : Frame => crc16 g.body) held).trans (crc.trans (congrArg Frame.rxCrc held).symm)
  refine ⟨s.dispatching now f, bufFrame_dispatching s now f, rfl, fun a beyond => Ctx.holding_read s.ctx f .processing 8 beyond, deliver,
    fun noFault noRefusal => ?_⟩
  have dispatched := step_of_frameReady (s := s.dispatching now f) noFault noRefusal (frameReady_iff.mpr ⟨rfl, rfl⟩)
  rw [deliver, dispatched, bufFrame_dispatching]
  refine andThen_congr fun t ran => ?_
  obtain ⟨block, -⟩ := request_fed (isRequest_toInstr f) ran
  rw [resumeDeliver, block.rest]
  rfl

/-! ### One byte -/

/-- The byte that completes a frame whose CRC does not match returns the assembler to IDLE (R83, R84). -/
theorem feedByte_of_mismatch {s : State} {b : Byte} (h : s.ctx.completing)
    (crc : crc16 [bufByte s 0, bufByte s 1, bufByte s 2, bufByte s 3, bufByte s 4, bufByte s 5] ≠ le16 (bufByte s 6) b) :
    feedByte b s = .next (s.setCtx (s.ctx.fed b)) := by
  rw [feedByte_of_completing b h, validate_of_mismatch, endDispatch_putByte b h]
  obtain ⟨-, -, full⟩ := h
  have seven : s.ctx.len = 7 := Nat.succ.inj full
  have kept : ∀ i, i ≠ 7 → bufByte ((s.setCrc (crc16Update s.ctx.crc b)).putByte s.ctx.len b) i = bufByte s i := by
    intro i other
    rw [seven]
    simp only [bufByte, State.putByte_ctx, State.setCrc_ctx, Memory.read_write_ne _ _ other]
  have last : bufByte ((s.setCrc (crc16Update s.ctx.crc b)).putByte s.ctx.len b) 7 = b := by
    rw [seven]
    simp only [bufByte, State.putByte_ctx, Memory.read_write_same, Option.getD_some]
  simp only [bufFrame, Frame.body, Frame.rxCrc, last, kept 0 (by decide), kept 1 (by decide), kept 2 (by decide), kept 3 (by decide),
    kept 4 (by decide), kept 5 (by decide), kept 6 (by decide)]
  exact crc

section OneByte
variable {now : Millis} {b : Byte} {s : State} (notBusy : s.busy = false) (quiet : s.env.quiet = true) (isOpen : s.ctx.isOpen = true)
include notBusy quiet isOpen

/-- DELIVER of one byte that changes the device context as `Ctx.fed` says and nothing else. -/
theorem deliver_one_byte {c : Ctx} (final : s.ctx.fed b = c)
    (fed : ∀ u : State, u.ctx = s.ctx → feedByte b u = .next (u.setCtx (u.ctx.fed b))) :
    ∃ t, exec (.deliver now [b]) s = .next t ∧ DeliveredQuietly now s t ∧ t.ctx = c := by
  refine deliver_quietly notBusy quiet (List.cons_ne_nil _ _) ?_
  rw [feedChunk_one, chunkByte, if_pos (by exact isOpen), fed (((s.delivering now).setRest [b]).setRest []) rfl, ← final]
  rfl

/-- The same of a byte stored at index `i`. -/
theorem deliver_stored_byte {c : Ctx} {i : Nat} (final : s.ctx.fed b = c) (stored : c.buf = s.ctx.buf.write i b)
    (fed : ∀ u : State, u.ctx = s.ctx → feedByte b u = .next (u.setCtx (u.ctx.fed b))) :
    ∃ t, exec (.deliver now [b]) s = .next t ∧ DeliveredQuietly now s t ∧ StoresByte s t i b ∧ t.ctx = { c with buf := t.ctx.buf } := by
  obtain ⟨t, ends, quietly, ctx⟩ := deliver_one_byte notBusy quiet isOpen final fed (now := now)
  refine ⟨t, ends, quietly, ⟨?_, fun a other => ?_⟩, by rw [ctx]⟩
  · rw [ctx, stored, Memory.read_write_same]
  · rw [ctx, stored, Memory.read_write_ne _ _ other]

end OneByte

/-- A byte that completes no frame, in any state with the given device context. -/
theorem feedByte_of_silent_ctx {s : State} (b : Byte) (noFrame : ¬ s.ctx.completing) (notProcessing : s.ctx.asm ≠ .processing) (u : State)
    (same : u.ctx = s.ctx) : feedByte b u = .next (u.setCtx (u.ctx.fed b)) :=
  feedByte_of_silent b (by rwa [same]) (by rwa [same])

theorem Ctx.not_completing_of_asm {c : Ctx} (h : c.asm ≠ .receiving) : ¬ c.completing := fun complete => h complete.1

/-- Settles O29: the seven cases of `Ctx.fed`, and PROCESSING. -/
theorem oneByteStepsTheAssembler : Obligations.OneByteStepsTheAssembler := by
  intro now b s notBusy quiet isOpen
  refine ⟨fun idle address => ?_, fun idle other => ?_, fun receiving room short => ?_, fun receiving full capacity crc => ?_,
    fun receiving full => ?_, fun illegal => ?_, fun processing => ?_⟩
  · exact deliver_stored_byte notBusy quiet isOpen (Ctx.fed_of_address idle address) rfl
      (feedByte_of_silent_ctx b (Ctx.not_completing_of_asm (by rw [idle]; decide)) (by rw [idle]; decide))
  · exact deliver_one_byte notBusy quiet isOpen (Ctx.fed_of_skipped idle other)
      (feedByte_of_silent_ctx b (Ctx.not_completing_of_asm (by rw [idle]; decide)) (by rw [idle]; decide))
  · exact deliver_stored_byte notBusy quiet isOpen (Ctx.fed_of_stored receiving room short) rfl
      (feedByte_of_silent_ctx b (fun complete => short (Nat.succ.inj complete.2.2)) (by rw [receiving]; decide))
  · have complete : s.ctx.completing := ⟨receiving, by omega, by omega⟩
    have final := Ctx.fed_of_completing (b := b) complete
    rw [full] at final
    refine deliver_stored_byte notBusy quiet isOpen final rfl fun u same => ?_
    have bytes : ∀ i, bufByte u i = bufByte s i := fun i => by rw [bufByte, bufByte, same]
    exact feedByte_of_mismatch (by rwa [same]) (by simpa only [bytes] using crc)
  · exact deliver_one_byte notBusy quiet isOpen (Ctx.fed_of_overflow receiving full)
      (feedByte_of_silent_ctx b (fun complete => Nat.not_lt.mpr full complete.2.1) (by rw [receiving]; decide))
  · exact deliver_one_byte notBusy quiet isOpen (Ctx.fed_of_illegal illegal)
      (feedByte_of_silent_ctx b (Ctx.not_completing_of_asm (by rw [illegal]; decide)) (by rw [illegal]; decide))
  · refine ⟨{ (((s.delivering now).setRest []).setCrc (crc16Update s.ctx.crc b)) with fault := some .reentrant }, ?_, rfl, rfl, rfl⟩
    rw [exec, execDeliver_of_ne_nil notBusy (List.cons_ne_nil _ _), feedChunk_one, chunkByte, if_pos (by exact isOpen),
      feedByte_of_processing b (by exact processing)]
    rfl

end Sys2Proof.Machine
end

section
/-! The invariant of the block and what every DELIVER keeps (spec/10_state.md section 5; spec/41_frame_assembler.md). -/

namespace Sys2Proof.Machine

/-! ### The assembler's part of the invariant -/

/-- The assembler between two bytes: the part of `Inv` that is about the device context (R17, R32, R33). -/
structure AsmInv (c : Ctx) : Prop where
  /-- The capacity holds a frame (R17). -/
  capacity : 8 ≤ c.bufCap
  /-- The frame buffer is in canonical form. -/
  wf : c.buf.wf = true
  /-- Nothing is written from index 8 on (R33). -/
  low : ∀ cell ∈ c.buf, cell.1 < 8
  /-- The bytes held have been written. -/
  held : ∀ i < c.len, (c.buf.read? i).isSome = true
  /-- IDLE and empty, or RECEIVING one to seven bytes of which the first is the device address (R32). -/
  between : c.asm = .idle ∧ c.len = 0 ∨ c.asm = .receiving ∧ 1 ≤ c.len ∧ c.len < 8 ∧ c.buf.read? 0 = some c.devAddr

theorem bytesHeld_iff {s : State} : bytesHeld s = true ↔ ∀ i < s.ctx.len, (s.ctx.buf.read? i).isSome = true := by
  simp only [bytesHeld, List.all_eq_true, List.mem_range]

theorem bufLow_iff {m : Memory} : m.all (fun c => decide (c.1 < Config.frameLen)) = true ↔ ∀ cell ∈ m, cell.1 < 8 := by
  simp only [List.all_eq_true, decide_eq_true_iff]
  rfl

theorem betweenBytes_iff {s : State} : betweenBytes s = true ↔ s.ctx.asm = .idle ∧ s.ctx.len = 0 ∨
    s.ctx.asm = .receiving ∧ 1 ≤ s.ctx.len ∧ s.ctx.len < 8 ∧ s.ctx.buf.read? 0 = some s.ctx.devAddr := by
  simp only [betweenBytes, Bool.or_eq_true, Bool.and_eq_true, decide_eq_true_iff, beq_iff_eq, and_assoc]
  rfl

theorem Inv.asmInv {s : State} (inv : Inv s) (notBusy : s.busy = false) : AsmInv s.ctx :=
  ⟨inv.capacity, inv.bufWf, bufLow_iff.mp inv.bufLow, bytesHeld_iff.mp inv.held, betweenBytes_iff.mp (inv.idleOrReceiving notBusy)⟩

/-- With no operation in progress the invariant is that of the assembler and of the known registers. -/
theorem AsmInv.inv {s : State} (asm : AsmInv s.ctx) (store : cellsWf s.env.store = true) (notBusy : s.busy = false) (rest : s.rest = []) :
    Inv s :=
  ⟨asm.capacity, asm.wf, bufLow_iff.mpr asm.low, store, bytesHeld_iff.mpr asm.held, fun _ => betweenBytes_iff.mpr asm.between,
    fun _ => rest, fun busy => absurd (notBusy.symm.trans busy) Bool.false_ne_true⟩

/-- An assembler that returns to IDLE, whatever it held, is between two bytes. -/
theorem AsmInv.of_idle {c : Ctx} (idle : c.asm = .idle) (empty : c.len = 0) (capacity : 8 ≤ c.bufCap) (wf : c.buf.wf = true)
    (low : ∀ cell ∈ c.buf, cell.1 < 8) : AsmInv c :=
  ⟨capacity, wf, low, by rw [empty]; exact fun i h => absurd h (Nat.not_lt_zero i), .inl ⟨idle, empty⟩⟩

theorem low_write {m : Memory} (low : ∀ cell ∈ m, cell.1 < 8) {i : Nat} (h : i < 8) (b : Byte) : ∀ cell ∈ m.write i b, cell.1 < 8 := by
  intro cell mem
  obtain rfl | mem := mem_cellSet mem
  · exact h
  · exact low cell mem

/-- What a byte does in a state of the invariant: started, skipped, stored or completing a frame; never an overflow or PROCESSING. -/
theorem AsmInv.fed_cases {c : Ctx} (inv : AsmInv c) (b : Byte) :
    (c.asm = .idle ∧ c.len = 0 ∧ b = c.devAddr ∧
      c.fed b = { c with crc := crc16Update c.crc b, asm := .receiving, len := 1, buf := c.buf.write 0 b }) ∨
    (c.asm = .idle ∧ c.len = 0 ∧ c.fed b = { c with crc := crc16Update c.crc b }) ∨
    (c.asm = .receiving ∧ c.len < 7 ∧
      c.fed b = { c with crc := crc16Update c.crc b, len := c.len + 1, buf := c.buf.write c.len b }) ∨
    (c.completing ∧ c.len = 7 ∧
      c.fed b = { c with crc := crc16Update c.crc b, asm := .idle, len := 0, buf := c.buf.write c.len b }) := by
  have capacity := inv.capacity
  obtain ⟨idle, empty⟩ | ⟨receiving, -, short, -⟩ := inv.between
  · by_cases address : b = c.devAddr
    · exact .inl ⟨idle, empty, address, Ctx.fed_of_address idle address⟩
    · exact .inr (.inl ⟨idle, empty, Ctx.fed_of_skipped idle address⟩)
  · obtain stored | full := Nat.lt_or_eq_of_le (Nat.le_of_lt_succ short)
    · exact .inr (.inr (.inl ⟨receiving, stored, Ctx.fed_of_stored receiving (by omega) stored.ne⟩))
    · have complete : c.completing := ⟨receiving, by omega, by omega⟩
      exact .inr (.inr (.inr ⟨complete, full, Ctx.fed_of_completing complete⟩))

/-- A byte keeps the assembler's invariant and writes no index from 8 on. -/
theorem AsmInv.fed {c : Ctx} (inv : AsmInv c) (b : Byte) :
    AsmInv (c.fed b) ∧ ∀ a, 8 ≤ a → (c.fed b).buf.read? a = c.buf.read? a := by
  obtain ⟨-, -, address, e⟩ | ⟨idle, empty, e⟩ | ⟨receiving, short, e⟩ | ⟨-, full, e⟩ := inv.fed_cases b <;> rw [e]
  · refine ⟨⟨inv.capacity, Memory.wf_write inv.wf 0 b, low_write inv.low (by decide) b, fun i hi => ?_, .inr ⟨rfl, le_rfl, by simp, ?_⟩⟩,
      fun a beyond => Memory.read_write_ne _ _ (by omega)⟩
    · obtain rfl : i = 0 := Nat.lt_one_iff.mp hi
      simp
    · simp [address]
  · exact ⟨⟨inv.capacity, inv.wf, inv.low, inv.held, .inl ⟨idle, empty⟩⟩, fun a _ => rfl⟩
  · refine ⟨⟨inv.capacity, Memory.wf_write inv.wf _ b, low_write inv.low (by omega) b, fun i hi => ?_,
      .inr ⟨receiving, by simp, by simp; omega, ?_⟩⟩, fun a beyond => Memory.read_write_ne _ _ (by omega)⟩
    · obtain before | rfl := Nat.lt_or_eq_of_le (Nat.le_of_lt_succ hi)
      · rw [Memory.read_write_ne _ _ before.ne]; exact inv.held i before
      · simp
    · obtain ⟨idle, -⟩ | ⟨-, nonzero, -, first⟩ := inv.between
      · exact absurd (idle.symm.trans receiving) (by decide)
      · rw [Memory.read_write_ne _ _ (by omega)]; exact first
  · exact ⟨.of_idle rfl rfl inv.capacity (Memory.wf_write inv.wf _ b) (low_write inv.low (by omega) b),
      fun a beyond => Memory.read_write_ne _ _ (by omega)⟩

theorem AsmInv.received {c : Ctx} (inv : AsmInv c) (b : Byte) :
    AsmInv (c.received b) ∧ ∀ a, 8 ≤ a → (c.received b).buf.read? a = c.buf.read? a := by
  unfold Ctx.received
  split
  · exact inv.fed b
  · exact ⟨inv, fun _ _ => rfl⟩

theorem AsmInv.foldl_received {c : Ctx} (inv : AsmInv c) (bytes : List Byte) :
    AsmInv (bytes.foldl Ctx.received c) ∧ ∀ a, 8 ≤ a → (bytes.foldl Ctx.received c).buf.read? a = c.buf.read? a := by
  induction bytes generalizing c with
  | nil => exact ⟨inv, fun _ _ => rfl⟩
  | cons b bytes ih =>
    obtain ⟨one, kept⟩ := inv.received b
    obtain ⟨all, kept'⟩ := ih one
    exact ⟨all, fun a beyond => (kept' a beyond).trans (kept a beyond)⟩

/-! ### The configuration and the accumulator -/

theorem Ctx.received_config (c : Ctx) (b : Byte) : (c.received b).isOpen = c.isOpen ∧ (c.received b).devAddr = c.devAddr ∧
    (c.received b).bufCap = c.bufCap := by
  unfold Ctx.received
  split
  · exact (c.fed_config b).2
  · exact ⟨rfl, rfl, rfl⟩

theorem Ctx.foldl_received_config (c : Ctx) (bytes : List Byte) : (bytes.foldl Ctx.received c).isOpen = c.isOpen ∧
    (bytes.foldl Ctx.received c).devAddr = c.devAddr ∧ (bytes.foldl Ctx.received c).bufCap = c.bufCap := by
  induction bytes generalizing c with
  | nil => exact ⟨rfl, rfl, rfl⟩
  | cons b bytes ih =>
    obtain ⟨isOpen, addr, cap⟩ := c.received_config b
    obtain ⟨isOpen', addr', cap'⟩ := ih (c.received b)
    exact ⟨isOpen'.trans isOpen, addr'.trans addr, cap'.trans cap⟩

theorem Ctx.foldl_received_crc {c : Ctx} (isOpen : c.isOpen = true) (bytes : List Byte) :
    (bytes.foldl Ctx.received c).crc = bytes.foldl crc16Update c.crc := by
  induction bytes generalizing c with
  | nil => rfl
  | cons b bytes ih =>
    have crc : (c.received b).crc = crc16Update c.crc b := by rw [Ctx.received, if_pos isOpen]; exact (c.fed_config b).1
    rw [List.foldl_cons, ih (c := c.received b) ((c.received_config b).1.trans isOpen), crc, List.foldl_cons]

/-! ### A DELIVER that completes -/

/-- What a DELIVER of some bytes that completes has done: the chunk, then the re-arm. -/
theorem deliver_next {now : Millis} {bytes : List Byte} {s t : State} (nonempty : bytes ≠ []) (h : exec (.deliver now bytes) s = .next t) :
    s.busy = false ∧ ∃ u, t.ctx = bytes.foldl Ctx.received s.ctx ∧ Fed (s.delivering now) u ∧ u.rest = [] ∧
      rxRearm u = .ok { t with busy := u.busy } ∧ t.busy = false := by
  obtain ⟨notBusy, ⟨empty, -⟩ | ⟨u, chunk, ends⟩⟩ := execDeliver_next h
  · exact absurd empty nonempty
  · obtain ⟨ctx, fed, rest⟩ := feedChunk_next chunk
    obtain ⟨v, rearm, rfl⟩ := endDeliver_next ends
    obtain ⟨block, -⟩ := rxRearm_ok rearm
    refine ⟨notBusy, u, block.ctx.trans ctx, (Fed.setRest _ bytes).trans fed, rest rfl, ?_, rfl⟩
    rw [rearm, ← block.busy]
    rfl

/-- Settles O35. -/
theorem everyDeliveredByteUpdatesTheAccumulator : Obligations.EveryDeliveredByteUpdatesTheAccumulator := by
  intro now bytes s t isOpen h
  cases bytes with
  | nil =>
    obtain ⟨-, ⟨-, rfl⟩ | ⟨u, chunk, ends⟩⟩ := execDeliver_next h
    · rfl
    · cases chunk
      obtain ⟨v, rearm, rfl⟩ := endDeliver_next ends
      exact congrArg Ctx.crc (rxRearm_ok rearm).1.ctx
  | cons b bytes =>
    obtain ⟨-, u, ctx, -⟩ := deliver_next (List.cons_ne_nil b bytes) h
    rw [ctx, Ctx.foldl_received_crc isOpen]

/-- Settles O36: `Ctx.received` byte by byte for the context, `Fed` for the rest, and the re-arm as the last event. -/
theorem deliverLeavesTheRestAlone : Obligations.DeliverLeavesTheRestAlone := by
  intro now bytes s t inv nonempty h
  obtain ⟨notBusy, u, ctx, fed, -, rearm, stillNotBusy⟩ := deliver_next nonempty h
  obtain ⟨block, -, trace, -⟩ := rxRearm_ok rearm
  obtain ⟨isOpen, addr, cap⟩ := s.ctx.foldl_received_config bytes
  obtain ⟨-, kept⟩ := (inv.asmInv notBusy).foldl_received bytes
  obtain ⟨events, before, none⟩ := fed.trace
  refine ⟨block.sup.trans fed.sup, by rw [ctx, isOpen], by rw [ctx, addr], by rw [ctx, cap], block.fault.trans fed.fault,
    block.refusal.trans fed.refusal, block.inbox.trans fed.inbox, stillNotBusy, by rw [ctx]; exact kept, events, ?_, none⟩
  exact trace.trans (by rw [before]; rfl)

/-! ### Every instruction keeps the invariant -/

/-- A request leaves the invariant's state alone, but for the known registers. -/
theorem Inv.of_blockUnchanged {s t : State} (inv : Inv s) (block : BlockUnchanged s t) (store : cellsWf t.env.store = true) : Inv t :=
  ⟨by rw [block.ctx]; exact inv.capacity, by rw [block.ctx]; exact inv.bufWf, by rw [block.ctx]; exact inv.bufLow, store,
    bytesHeld_iff.mpr (by rw [block.ctx]; exact bytesHeld_iff.mp inv.held),
    fun notBusy => betweenBytes_iff.mpr (by rw [block.ctx]; exact betweenBytes_iff.mp (inv.idleOrReceiving (block.busy.symm.trans notBusy))),
    fun notBusy => block.rest.trans (inv.restEmpty (block.busy.symm.trans notBusy)),
    fun busy => by rw [block.ctx]; exact inv.processing (block.busy.symm.trans busy)⟩

/-- The end of a DELIVER reaches the invariant. -/
theorem endDeliver_inv {s t : State} (asm : AsmInv s.ctx) (store : cellsWf s.env.store = true) (rest : s.rest = [])
    (h : endDeliver s = .next t) : Inv t := by
  obtain ⟨u, rearm, rfl⟩ := endDeliver_next h
  obtain ⟨block, -, -, env⟩ := rxRearm_ok rearm
  refine AsmInv.inv ?_ ?_ rfl (block.rest.trans rest)
  · show AsmInv u.ctx
    rw [block.ctx]
    exact asm
  · show cellsWf u.env.store = true
    rw [env]
    exact store

/-- The bytes of a chunk and the end of their DELIVER reach the invariant. -/
theorem feedChunk_endDeliver_inv {bytes : List Byte} {s t : State} (asm : AsmInv s.ctx) (store : cellsWf s.env.store = true)
    (rest : s.rest = bytes) (h : andThen (feedChunk bytes s) endDeliver = .next t) : Inv t := by
  obtain ⟨u, chunk, ends⟩ := andThen_eq_next h
  obtain ⟨ctx, fed, done⟩ := feedChunk_next chunk
  refine endDeliver_inv ?_ (fed.storeWf store) (done rest) ends
  rw [ctx]
  exact (asm.foldl_received bytes).1

theorem deliver_keeps_inv {now : Millis} {bytes : List Byte} {s t : State} (inv : Inv s) (h : execDeliver now bytes s = .next t) : Inv t := by
  obtain ⟨notBusy, ⟨-, rfl⟩ | ⟨u, chunk, ends⟩⟩ := execDeliver_next h
  · exact inv
  · have asm : AsmInv ((s.delivering now).setRest bytes).ctx := inv.asmInv notBusy
    exact feedChunk_endDeliver_inv (bytes := bytes) asm inv.storeWf rfl (by rw [chunk]; exact ends)

theorem open_keeps_inv {addr : Byte} {cap : Nat} {s t : State} (inv : Inv s) (h : execOpen addr cap s = .next t) : Inv t := by
  obtain ⟨notBusy, -⟩ := unlessBusy_next h
  have asm := inv.asmInv notBusy
  obtain small | legal := Nat.lt_or_ge cap 8
  · obtain ⟨-, refused⟩ := refusalsOfTheSpec
    cases h.symm.trans (refused addr cap s notBusy small)
  · rw [execOpen_of_legal notBusy legal] at h
    split at h <;> cases h
    · exact AsmInv.inv asm inv.storeWf notBusy (inv.restEmpty notBusy)
    · exact AsmInv.inv (.of_idle rfl rfl legal asm.wf asm.low) inv.storeWf notBusy (inv.restEmpty notBusy)

theorem tick_keeps_inv {now : Millis} {s t : State} (inv : Inv s) (h : execTick now s = .next t) : Inv t := by
  obtain ⟨notBusy, ⟨-, rfl⟩ | ⟨u, r, -, reset, rfl⟩⟩ := execTick_next h
  · exact AsmInv.inv (s := s.setSup _) (inv.asmInv notBusy) inv.storeWf notBusy (inv.restEmpty notBusy)
  · obtain ⟨ctx, -, -, -, -, rest, -, -, -, env⟩ := forceReset_ok reset
    have asm := inv.asmInv notBusy
    refine AsmInv.inv (s := (r.setSup u).setBusy false) ?_ ?_ rfl (rest.trans (inv.restEmpty notBusy))
    · show AsmInv r.ctx
      rw [ctx]
      exact .of_idle rfl rfl asm.capacity asm.wf asm.low
    · show cellsWf r.env.store = true
      rw [env]
      exact inv.storeWf

/-- Every instruction keeps the invariant. -/
theorem exec_keeps_inv {i : Instr} {s t : State} (inv : Inv s) (h : exec i s = .next t) : Inv t := by
  by_cases request : isRequest i = true
  · obtain ⟨block, fed⟩ := request_fed request h
    exact inv.of_blockUnchanged block (fed.storeWf inv.storeWf)
  · cases i with
    | readHolding | readInput | writeSingle | writeMultiple | illegal => exact absurd rfl request
    | openContext addr cap => exact open_keeps_inv inv h
    | closeContext =>
      obtain ⟨notBusy, closed⟩ := unlessBusy_next (show execClose s = .next t from h)
      cases closed
      obtain ⟨capacity, wf, low, held, between⟩ := inv.asmInv notBusy
      exact AsmInv.inv ⟨capacity, wf, low, held, between⟩ inv.storeWf notBusy (inv.restEmpty notBusy)
    | deliver now bytes => exact deliver_keeps_inv inv h
    | markActivity now =>
      obtain ⟨notBusy, marked⟩ := unlessBusy_next (show execMarkActivity now s = .next t from h)
      cases marked
      exact AsmInv.inv (s := s.touch now) (inv.asmInv notBusy) inv.storeWf notBusy (inv.restEmpty notBusy)
    | markError =>
      obtain ⟨notBusy, marked⟩ := unlessBusy_next (show execMarkError s = .next t from h)
      cases marked
      exact AsmInv.inv (s := s.setSup _) (inv.asmInv notBusy) inv.storeWf notBusy (inv.restEmpty notBusy)
    | tick now => exact tick_keeps_inv inv h
    | reservedHostop => cases h

/-- The rest of a DELIVER whose frame has been dispatched keeps the invariant. -/
theorem resumeDeliver_keeps_inv {s t : State} (inv : Inv s) (h : resumeDeliver s = .next t) : Inv t :=
  feedChunk_endDeliver_inv (s := endDispatch s) (.of_idle rfl rfl inv.capacity inv.bufWf (bufLow_iff.mp inv.bufLow)) inv.storeWf rfl h

/-- The inbox is no part of the invariant. -/
theorem Inv.of_inbox {s : State} (inv : Inv s) (later : List HostCall) : Inv { s with inbox := later } :=
  ⟨inv.capacity, inv.bufWf, inv.bufLow, inv.storeWf, inv.held, inv.idleOrReceiving, inv.restEmpty, inv.processing⟩

/-- What a step that completes has run: nothing, a frame being dispatched with the rest of its DELIVER, or the next host call. -/
theorem step_next {s t : State} (h : step s = .next t) :
    t = s ∨ (∃ i u, exec i s = .next u ∧ resumeDeliver u = .next t) ∨ ∃ i later, exec i { s with inbox := later } = .next t := by
  obtain noFault | ⟨r, mark⟩ := Option.eq_none_or_eq_some s.fault
  swap
  · cases h.symm.trans (step_of_fault mark)
  obtain noRefusal | ⟨r, mark⟩ := Option.eq_none_or_eq_some s.refusal
  swap
  · cases h.symm.trans (step_of_refusal noFault mark)
  by_cases ready : frameReady s = true
  · exact .inr (.inl ⟨_, andThen_eq_next ((step_of_frameReady noFault noRefusal ready).symm.trans h)⟩)
  by_cases empty : s.inbox = []
  · cases h.symm.trans (step_of_empty_inbox noFault noRefusal ready empty)
    exact .inl rfl
  obtain ⟨call, later, inbox⟩ := List.exists_cons_of_ne_nil empty
  cases decoded : decodeHost call with
  | error e => cases h.symm.trans (step_of_illTyped noFault noRefusal ready inbox decoded)
  | ok i => exact .inr (.inr ⟨i, later, (step_of_call noFault noRefusal ready inbox decoded).symm.trans h⟩)

/-! ### The obligations -/

/-- Settles O55: whichever instruction the step runs, it keeps the invariant, and so does the rest of a DELIVER. -/
theorem stepKeepsTheInvariant : Obligations.StepKeepsTheInvariant := by
  intro s t inv h
  obtain rfl | ⟨i, u, ran, resumed⟩ | ⟨i, later, ran⟩ := step_next h
  · exact inv
  · exact resumeDeliver_keeps_inv (exec_keeps_inv inv ran) resumed
  · exact exec_keeps_inv (inv.of_inbox later) ran

/-- Settles O54. -/
theorem invariantHoldsAtPowerOn : Obligations.InvariantHoldsAtPowerOn := fun now0 =>
  AsmInv.inv (s := State.powerOn now0) (.of_idle rfl rfl le_rfl rfl (fun _ mem => nomatch mem)) rfl rfl rfl

/-! ### DELIVER completes where no frame can read past the buffer -/

/-- Where a frame cannot read past the buffer: the longest payload fits, or the function code buffered is not that of WRITE_MULTIPLE. -/
def Ctx.Safe (c : Ctx) : Prop := 253 ≤ c.bufCap ∨ (2 ≤ c.len → c.buf.read? 1 ≠ some 0x10#8)

/-- In a quiet environment a request completes, if WRITE_MULTIPLE has room for the longest payload. -/
theorem request_completes {i : Instr} (request : isRequest i = true) {s : State} (quiet : s.env.quiet = true)
    (room : (∃ a start count l h, i = .writeMultiple a start count l h) → 253 ≤ s.ctx.bufCap) : ∃ t, exec i s = .next t := by
  have read : ∀ fc start count, ∃ t, readRequest fc start count s = .next t := by
    intro fc start count
    obtain ⟨answered, rejected⟩ := readRequest_answered quiet fc start count
    by_cases legal : 1 ≤ count.toNat ∧ count.toNat ≤ 125
    · obtain ⟨vs, -, t, n, ends, -⟩ := answered legal
      exact ⟨t, ends⟩
    · obtain ⟨t, n, ends, -⟩ := rejected (by omega)
      exact ⟨t, ends⟩
  cases i with
  | readHolding a start count => exact read _ start count
  | readInput a start count => exact read _ start count
  | writeSingle a address value =>
    obtain ⟨stored, t, n, ends, -⟩ := execWriteSingle_of_quiet quiet address value
    exact ⟨t, ends⟩
  | writeMultiple a start count byteCount h =>
    have capacity := room ⟨a, start, count, byteCount, h, rfl⟩
    by_cases legal : writeCountLegal count byteCount = true
    · have few := (writeCountLegal_iff.mp legal).2.1
      obtain ⟨ws, -, -, t, n, ends, -⟩ := execWriteMultiple_of_quiet (start := start) quiet legal (by omega)
      exact ⟨t, ends⟩
    · obtain ⟨t, n, ends, -⟩ := sendException_repliesAfter quiet 0x10#8 .illegalDataValue
      exact ⟨t, (execWriteMultiple_of_not_legal legal start s).trans ends⟩
  | illegal a fc =>
    obtain ⟨t, n, ends, -⟩ := sendException_repliesAfter quiet fc .illegalFunction
    exact ⟨t, ends⟩
  | openContext | closeContext | deliver | markActivity | markError | tick | reservedHostop => cases request

/-- A frame whose instruction is WRITE_MULTIPLE has its function code. -/
theorem fc_of_toInstr_writeMultiple {f : Frame} {a l h : Byte} {start count : Word16} (e : f.toInstr = .writeMultiple a start count l h) :
    f.fc = 0x10#8 := by
  unfold Frame.toInstr at e
  split_ifs at e with h3 h4 h6 h16
  exact h16

/-- VALIDATE completes in a quiet environment, if the buffered frame is no WRITE_MULTIPLE or the buffer holds every payload. -/
theorem validate_completes {s : State} (quiet : s.env.quiet = true) (safe : 253 ≤ s.ctx.bufCap ∨ bufByte s 1 ≠ 0x10#8) :
    ∃ t, validate s = .next t := by
  by_cases crc : crc16 (bufFrame s).body = (bufFrame s).rxCrc
  · obtain ⟨t, ran⟩ := request_completes (s := s.setAsm .processing) (isRequest_toInstr (bufFrame s)) quiet
      fun ⟨a, start, count, l, h, e⟩ => safe.resolve_right fun other => other (fc_of_toInstr_writeMultiple e)
    exact ⟨endDispatch t, by rw [validate_of_match crc, ran]; rfl⟩
  · exact ⟨_, validate_of_mismatch crc⟩

/-- A byte fed in a quiet environment completes, and the next one is as safe. -/
theorem feedByte_completes {b : Byte} {s : State} (inv : AsmInv s.ctx) (quiet : s.env.quiet = true) (safe : s.ctx.Safe)
    (other : 253 ≤ s.ctx.bufCap ∨ b ≠ 0x10#8) : (∃ t, feedByte b s = .next t) ∧ (s.ctx.fed b).Safe := by
  obtain ⟨idle, -, -, e⟩ | ⟨idle, empty, e⟩ | ⟨receiving, short, e⟩ | ⟨complete, full, e⟩ := inv.fed_cases b
  · refine ⟨⟨_, feedByte_of_silent b (Ctx.not_completing_of_asm (by rw [idle]; decide)) (by rw [idle]; decide)⟩, ?_⟩
    rw [e]
    exact .inr fun two => absurd (show 2 ≤ 1 from two) (by decide)
  · refine ⟨⟨_, feedByte_of_silent b (Ctx.not_completing_of_asm (by rw [idle]; decide)) (by rw [idle]; decide)⟩, ?_⟩
    rw [e]
    exact safe
  · refine ⟨⟨_, feedByte_of_silent b (fun complete => short.ne (Nat.succ.inj complete.2.2)) (by rw [receiving]; decide)⟩, ?_⟩
    rw [e]
    obtain capacity | other := other
    · exact .inl capacity
    · refine safe.imp_right fun kept two => ?_
      by_cases second : s.ctx.len = 1
      · simpa [second] using other
      · show (s.ctx.buf.write s.ctx.len b).read? 1 ≠ _
        rw [Memory.read_write_ne _ _ (Ne.symm second)]
        exact kept (by have : 2 ≤ s.ctx.len + 1 := two; omega)
  · constructor
    · rw [feedByte_of_completing b complete]
      refine validate_completes quiet (safe.imp_right fun kept => ?_)
      obtain ⟨fc, written⟩ := Option.isSome_iff_exists.mp (inv.held 1 (by omega))
      rw [bufByte, full]
      simp only [State.putByte_ctx, State.setCrc_ctx, Memory.read_write_ne _ b (by decide : 1 ≠ 7), written, Option.getD_some]
      rintro rfl
      exact kept (by omega) written
    · rw [e]
      exact .inr fun two => absurd (show 2 ≤ 0 from two) (by decide)

/-- The bytes of a chunk complete in a quiet environment. -/
theorem feedChunk_completes {bytes : List Byte} {s : State} (inv : AsmInv s.ctx) (quiet : s.env.quiet = true) (safe : s.ctx.Safe)
    (others : 253 ≤ s.ctx.bufCap ∨ ∀ b ∈ bytes, b ≠ 0x10#8) : ∃ t, feedChunk bytes s = .next t := by
  induction bytes generalizing s with
  | nil => exact ⟨s, rfl⟩
  | cons b bytes ih =>
    obtain ⟨⟨u, one⟩, safe'⟩ : (∃ u, chunkByte b (s.setRest bytes) = .next u) ∧ (s.ctx.received b).Safe := by
      by_cases isOpen : s.ctx.isOpen = true
      · have fed := feedByte_completes (b := b) (s := s.setRest bytes) inv quiet safe (others.imp_right fun none => none b List.mem_cons_self)
        rw [chunkByte, Ctx.received, if_pos isOpen, if_pos (by exact isOpen)]
        exact fed
      · rw [chunkByte, Ctx.received, if_neg isOpen, if_neg (by exact isOpen)]
        exact ⟨⟨_, rfl⟩, safe⟩
    obtain ⟨ctx, fed, -⟩ := chunkByte_next one
    have same : u.ctx = s.ctx.received b := ctx
    obtain ⟨-, -, cap⟩ := s.ctx.received_config b
    obtain ⟨t, more⟩ := ih (s := u) (by rw [same]; exact (inv.received b).1) (fed.quiet quiet) (by rw [same]; exact safe')
      (by rw [same, cap]; exact others.imp_right fun none b mem => none b (List.mem_cons_of_mem _ mem))
    exact ⟨t, by rw [feedChunk, one]; exact more⟩

/-- Settles O37: every byte completes, the byte source lets the re-arm return, and O55's lemma gives the invariant. -/
theorem deliverCompletes : Obligations.DeliverCompletes := by
  intro now bytes s inv notBusy quiet room
  have asm := inv.asmInv notBusy
  obtain ⟨t, ends⟩ : ∃ t, exec (.deliver now bytes) s = .next t := by
    by_cases empty : bytes = []
    · exact ⟨s, by rw [empty]; exact emptyDeliveryChangesNothing now s notBusy⟩
    · have safe : s.ctx.Safe := room.imp_right fun ⟨idle, _⟩ two => by
        obtain ⟨-, none⟩ | ⟨receiving, -⟩ := asm.between
        · omega
        · exact absurd (idle.symm.trans receiving) (by decide)
      obtain ⟨u, chunk⟩ := feedChunk_completes (s := (s.delivering now).setRest bytes) asm quiet safe (room.imp_right And.right)
      obtain ⟨v, rearm, -⟩ := rxRearm_of_quiet ((feedChunk_next chunk).2.1.quiet quiet)
      exact ⟨v.setBusy false, by rw [exec, execDeliver_of_ne_nil notBusy empty, chunk]; exact endDeliver_of_rearm rearm⟩
  refine ⟨t, ends, exec_keeps_inv inv ends, ?_⟩
  obtain ⟨-, ⟨-, rfl⟩ | ⟨u, -, ended⟩⟩ := execDeliver_next ends
  · exact notBusy
  · obtain ⟨v, -, rfl⟩ := endDeliver_next ended
    rfl

end Sys2Proof.Machine
end

section
/-! Placing an instruction where the next step finds it (log 2, log 4). -/

namespace Sys2Proof.Machine

/-- A placed frame is the frame buffered. -/
theorem bufFrame_placeRequest (s : State) (f : Frame) : bufFrame (placeRequest s f.bytes) = f :=
  bufFrame_of_writeBytes (m := s.ctx.buf) rfl

theorem toOption_eq_some {α : Type} {e : Except DecodeError α} {a : α} (h : e.toOption = some a) : e = .ok a := by
  cases e with
  | error e => cases h
  | ok b => exact congrArg _ (Option.some.inj h)

/-- Settles O53: a placed frame is dispatched, a placed call is first in the inbox. -/
theorem placedWordIsRunNext : Obligations.PlacedWordIsRunNext := by
  intro s nbits w i h
  unfold decodeTableWord at h
  split_ifs at h with request call
  · obtain ⟨rfl, -⟩ := request
    have decoded : decodeFrame (bytesOfWord w) = .ok i := toOption_eq_some h
    obtain ⟨f, bytes, rfl⟩ := decodeFrame_eq_ok.mp decoded
    refine ⟨fun _ => ?_, fun other => absurd rfl other⟩
    have placed : s.withFetchWord 64 w = placeRequest s f.bytes := by rw [← bytes]; rfl
    have dispatched := step_of_frameReady (s := placeRequest s f.bytes) rfl rfl (frameReady_iff.mpr ⟨rfl, rfl⟩)
    rw [placed, dispatched, bufFrame_placeRequest]
  · have short : nbits ≠ 64 := by omega
    refine ⟨fun wide => absurd wide short, fun _ => ?_⟩
    have placed : s.withFetchWord nbits w = placeCall s (callOfWord w) := if_neg short
    rw [placed]
    exact step_of_call (s := placeCall s (callOfWord w)) rfl rfl (not_frameReady_of_not_busy rfl) rfl (toOption_eq_some h)

end Sys2Proof.Machine
end

section
/-! Two runs that differ only in what no request looks at: the events before them, the bytes after them, and the partners they do not ask. -/

namespace Sys2Proof.Machine

/-! ### Outcomes with their states changed -/

/-- A fault with the state it leaves changed. -/
def Fault.mapState (g : State → State) : Fault → Fault
  | .reentrant final => .reentrant (g final)
  | .bufOverread index final => .bufOverread index (g final)

/-- A refusal with the state it leaves changed. -/
def Refusal.mapState (g : State → State) : Refusal → Refusal
  | .notModelled mnemonic => .notModelled mnemonic
  | .reservedOp final => .reservedOp (g final)
  | .badCap final => .badCap (g final)
  | .illTyped op final => .illTyped op (g final)

/-- An outcome with the state it leaves changed. -/
def mapResult (g : State → State) : Result → Result
  | .next s => .next (g s)
  | .fault e => .fault (e.mapState g)
  | .refused e => .refused (e.mapState g)

/-- An answer or a fault with the state it leaves changed. -/
def mapExcept {α : Type} (g : State → State) : Except Fault (α × State) → Except Fault (α × State)
  | .ok (a, s) => .ok (a, g s)
  | .error e => .error (e.mapState g)

/-- The same of an operation that answers a state only. -/
def mapState (g : State → State) : Except Fault State → Except Fault State
  | .ok s => .ok (g s)
  | .error e => .error (e.mapState g)

theorem mapResult_eq_next {g : State → State} {r : Result} {t : State} (h : mapResult g r = .next t) : ∃ s, r = .next s ∧ g s = t := by
  cases r with
  | next s => exact ⟨s, rfl, Host.Outcome.next.inj h⟩
  | fault e => cases h
  | refused e => cases h

theorem mapResult_andThen {g : State → State} {f : State → Result} (commutes : ∀ s, f (g s) = mapResult g (f s)) (r : Result) :
    andThen (mapResult g r) f = mapResult g (andThen r f) := by
  cases r with
  | next s => exact commutes s
  | fault e => rfl
  | refused e => rfl

/-! ### Backdrops -/

/-- What may differ around a run that does not look at it. -/
structure Backdrop where
  /-- The events before the run. -/
  past : List PortEvent
  /-- The bytes of the chunk after those of the run. -/
  later : List Byte
  /-- The transmit sink's replies. -/
  sent : List (PartnerReply Nat) → List (PartnerReply Nat)
  /-- The byte source's reactions. -/
  rearm : List (PartnerReply Unit)

/-- The state `s` against the backdrop `w`. -/
def State.against (w : Backdrop) (s : State) : State :=
  { s with
    trace := w.past ++ s.trace
    rest := s.rest ++ w.later
    env := { s.env with sentReplies := w.sent s.env.sentReplies, rearmReplies := w.rearm } }

section Against
variable (w : Backdrop)

theorem emit_against (s : State) (e : PortEvent) : (s.against w).emit e = (s.emit e).against w := by
  simp only [State.against, State.emit, List.append_assoc]

theorem raiseFault_against (r : FaultReason) (s : State) : raiseFault r (s.against w) = (raiseFault r s).mapState (State.against w) := by
  cases r <;> rfl

theorem calledBack_against (request : PortRequest) (s : State) :
    calledBack request (s.against w) = (calledBack request s).mapState (State.against w) := by
  rw [calledBack, emit_against, raiseFault_against]
  rfl

/-! ### Register transactions -/

theorem regRead_against (la : LogAddr) (s : State) : regRead la (s.against w) = mapExcept (State.against w) (regRead la s) := by
  have replies : (s.against w).env.readReplies = s.env.readReplies := rfl
  have store : (s.against w).env.store = s.env.store := rfl
  unfold regRead
  rw [replies, store]
  split
  · next later _ => exact congrArg Except.error (calledBack_against w _ (s.setEnv { s.env with readReplies := later, store := [] }))
  · next v later _ =>
    exact congrArg (fun t => Except.ok (v, t))
      (emit_against w (s.setEnv { s.env with readReplies := later, store := storeAfter s.env.store la v }) _)
  · split
    · next v _ => exact congrArg (fun t => Except.ok (v, t)) (emit_against w s _)
    · exact congrArg (fun t => Except.ok (Config.freeWord s.draws, t)) (emit_against w (s.drawn.setEnv { s.env with store := [] }) _)

theorem regWrite_against (la : LogAddr) (v : Word16) (s : State) :
    regWrite la v (s.against w) = mapState (State.against w) (regWrite la v s) := by
  have replies : (s.against w).env.writeReplies = s.env.writeReplies := rfl
  have store : (s.against w).env.store = s.env.store := rfl
  unfold regWrite
  rw [replies, store]
  split
  · next later _ => exact congrArg Except.error (calledBack_against w _ (s.setEnv { s.env with writeReplies := later, store := [] }))
  · next stored later _ =>
    exact congrArg Except.ok
      (emit_against w (s.setEnv { s.env with writeReplies := later, store := storeAfter s.env.store la stored }) _)
  · split
    · exact congrArg Except.ok (emit_against w (s.setEnv { s.env with store := storeAfter s.env.store la v }) _)
    · exact congrArg Except.ok (emit_against w (s.drawn.setEnv { s.env with store := [] }) _)

theorem bufRead_against (i : Nat) (s : State) : bufRead i (s.against w) = mapExcept (State.against w) (bufRead i s) := by
  have cap : (s.against w).ctx.bufCap = s.ctx.bufCap := rfl
  unfold bufRead
  rw [cap]
  split_ifs
  · rfl
  · rfl
  · exact congrArg Except.error (raiseFault_against w _ s)

theorem payloadValue_against (i : Nat) (s : State) : payloadValue i (s.against w) = mapExcept (State.against w) (payloadValue i s) := by
  simp only [payloadValue, bufRead_against]
  cases bufRead (7 + 2 * i) s with
  | error e => rfl
  | ok r =>
    simp only [mapExcept, bufRead_against]
    cases bufRead (8 + 2 * i) r.2 <;> rfl

theorem readRegs_against (start : Word16) (n i : Nat) (s : State) :
    readRegs start n i (s.against w) = mapExcept (State.against w) (readRegs start n i s) := by
  induction n generalizing i s with
  | zero => rfl
  | succ n ih =>
    simp only [readRegs, regRead_against]
    cases regRead (regAddr start i) s with
    | error e => rfl
    | ok r =>
      simp only [mapExcept, ih]
      cases readRegs start n (i + 1) r.2 <;> rfl

theorem writeRegs_against (start : Word16) (n i : Nat) (s : State) :
    writeRegs start n i (s.against w) = mapState (State.against w) (writeRegs start n i s) := by
  induction n generalizing i s with
  | zero => rfl
  | succ n ih =>
    simp only [writeRegs, payloadValue_against]
    cases payloadValue i s with
    | error e => rfl
    | ok r =>
      simp only [mapExcept, regWrite_against]
      cases regWrite (regAddr start i) r.1 r.2 with
      | error e => rfl
      | ok u => exact ih (i + 1) u

/-- The register transactions of a request and the reply they give do not look at the backdrop. -/
theorem replyOf_against (i : Instr) (s : State) : replyOf i (s.against w) = mapExcept (State.against w) (replyOf i s) := by
  have read : ∀ fc start count, readReply fc start count (s.against w) = mapExcept (State.against w) (readReply fc start count s) := by
    intro fc start count
    unfold readReply
    split
    · rw [readRegs_against]
      cases readRegs start count.toNat 0 s <;> rfl
    · rfl
  cases i with
  | readHolding a start count => exact read 0x03#8 start count
  | readInput a start count => exact read 0x04#8 start count
  | writeSingle a address value =>
    simp only [replyOf, regWrite_against]
    cases regWrite (regAddr address 0) value s <;> rfl
  | writeMultiple a start count byteCount =>
    simp only [replyOf, writeReply]
    split
    · rw [writeRegs_against]
      cases writeRegs start count.toNat 0 s <;> rfl
    · rfl
  | illegal | openContext | closeContext | deliver | markActivity | markError | tick | reservedHostop => rfl

/-! ### A sink that calls back -/

theorem send_of_calls {s : State} {later : List (PartnerReply Nat)} (replies : s.env.sentReplies = .calls :: later) (fc : Byte)
    (payload : List Byte) : send fc payload s =
      .fault (calledBack (.transmit (replyBytes s fc payload)) (s.setEnv { s.env with sentReplies := later })) := by
  simp only [send, transmit, replies, ofExcept_error]

/-! ### Replies and bytes, before a sink that is the same -/

section SameSink
variable {w} (sink : w.sent = id)
include sink

theorem transmit_against (bytes : List Byte) (s : State) :
    transmit bytes (s.against w) = mapState (State.against w) (transmit bytes s) := by
  have replies : (s.against w).env.sentReplies = s.env.sentReplies := congrFun sink _
  have setSent : ∀ later : List (PartnerReply Nat), (s.against w).setEnv { (s.against w).env with sentReplies := later } =
      (s.setEnv { s.env with sentReplies := later }).against w := by
    intro later
    simp only [State.against, State.setEnv, sink, id]
  unfold transmit
  rw [replies]
  split
  · rw [setSent]
    exact congrArg Except.error (calledBack_against w _ _)
  · rw [setSent]
    exact congrArg Except.ok (emit_against w _ _)
  · exact congrArg Except.ok (emit_against w s.drawn _)

theorem exec_against {i : Instr} (request : isRequest i = true) (s : State) :
    exec i (s.against w) = mapResult (State.against w) (exec i s) := by
  rw [exec_eq_sendReply request, exec_eq_sendReply request, replyOf_against]
  cases replyOf i s with
  | error e => rfl
  | ok ru =>
    obtain ⟨r, u⟩ := ru
    simp only [mapExcept, sendReply, send, transmit_against sink]
    have bytes : replyBytes (u.against w) r.fc r.payload = replyBytes u r.fc r.payload := rfl
    rw [bytes]
    cases transmit (replyBytes u r.fc r.payload) u <;> rfl

theorem validate_against (s : State) : validate (s.against w) = mapResult (State.against w) (validate s) := by
  have frame : bufFrame (s.against w) = bufFrame s := rfl
  by_cases crc : crc16 (bufFrame s).body = (bufFrame s).rxCrc
  · rw [validate_of_match crc, validate_of_match (by rw [frame]; exact crc), frame]
    have ran := exec_against sink (isRequest_toInstr (bufFrame s)) (s.setAsm .processing)
    exact (congrArg (fun r => andThen r fun t => .next (endDispatch t)) ran).trans (mapResult_andThen (fun t => rfl) _)
  · rw [validate_of_mismatch crc, validate_of_mismatch (by rw [frame]; exact crc)]
    rfl

theorem feedByte_against (b : Byte) (s : State) : feedByte b (s.against w) = mapResult (State.against w) (feedByte b s) := by
  by_cases complete : s.ctx.completing
  · rw [feedByte_of_completing b complete, feedByte_of_completing b (by exact complete)]
    exact validate_against sink ((s.setCrc (crc16Update s.ctx.crc b)).putByte s.ctx.len b)
  · by_cases processing : s.ctx.asm = .processing
    · rw [feedByte_of_processing b processing, feedByte_of_processing b (by exact processing)]
      rfl
    · rw [feedByte_of_silent b complete processing, feedByte_of_silent b (by exact complete) (by exact processing)]
      rfl

theorem chunkByte_against (b : Byte) (s : State) : chunkByte b (s.against w) = mapResult (State.against w) (chunkByte b s) := by
  by_cases isOpen : s.ctx.isOpen = true
  · rw [chunkByte, chunkByte, if_pos isOpen, if_pos (by exact isOpen)]
    exact feedByte_against sink b s
  · rw [chunkByte, chunkByte, if_neg isOpen, if_neg (by exact isOpen)]
    rfl

/-- The bytes of a chunk, before those the backdrop holds, and then these. -/
theorem feedChunk_append_against (front : List Byte) (s : State) :
    feedChunk (front ++ w.later) (s.against w) = andThen (mapResult (State.against w) (feedChunk front s)) (feedChunk w.later) := by
  induction front generalizing s with
  | nil => rfl
  | cons b front ih =>
    show andThen (chunkByte b ((s.setRest front).against w)) (feedChunk (front ++ w.later)) =
      andThen (mapResult (State.against w) (andThen (chunkByte b (s.setRest front)) (feedChunk front))) (feedChunk w.later)
    rw [chunkByte_against sink]
    cases chunkByte b (s.setRest front) with
    | next u => exact ih u
    | fault e => rfl
    | refused e => rfl

/-- The bytes of a chunk before a backdrop that holds no more bytes. -/
theorem feedChunk_against (last : w.later = []) (bytes : List Byte) (s : State) :
    feedChunk bytes (s.against w) = mapResult (State.against w) (feedChunk bytes s) := by
  have whole := feedChunk_append_against sink bytes s
  rw [last, List.append_nil] at whole
  rw [whole]
  cases feedChunk bytes s <;> rfl

end SameSink
end Against
end Sys2Proof.Machine
end

section
/-! Partners that call back on Transmit and RxRearm, and a chunk cut in two (spec/70_reset_and_hazards.md section 4; spec/20_memory.md section 5). -/

namespace Sys2Proof.Machine

/-! ### The transmit sink -/

/-- A sink that calls back on the next Transmit, all else as in `s`. -/
def callingSink (s : State) (later : List (PartnerReply Nat)) : Backdrop := ⟨[], [], fun _ => .calls :: later, s.env.rearmReplies⟩

theorem against_callingSink {s : State} {later : List (PartnerReply Nat)} (replies : s.env.sentReplies = .calls :: later) :
    State.against (callingSink s later) { s with env := { s.env with sentReplies := [] } } = s := by
  simp only [State.against, callingSink, ← replies, List.nil_append, List.append_nil]

theorem BlockUnchanged.setEnv (s : State) (e : Env) : BlockUnchanged s (s.setEnv e) := ⟨rfl, rfl, rfl, rfl, rfl, rfl, rfl⟩

/-- Settles O57: the register transactions do not ask the sink, so the reply offered is the same. -/
theorem sinkCallingBackFaults : Obligations.SinkCallingBackFaults := by
  intro i s t later request replies h
  obtain ⟨r, u, -, reply, sent, -⟩ := request_next request h
  obtain ⟨-, n, -, trace, -⟩ := send_next sent
  have offered : replyOf i s = .ok (r, u.against (callingSink s later)) := by
    rw [← against_callingSink replies, replyOf_against, reply, against_callingSink replies]
    rfl
  obtain ⟨events, -, exchanged, -⟩ := replyOf_ok request offered
  refine ⟨events, replyBytes u r.fc r.payload, n, ?_, ?_⟩
  · rw [trace]
    exact congrArg (· ++ _) exchanged.trace
  · have faults := send_of_calls (s := u.against (callingSink s later)) rfl r.fc r.payload
    have block := exchanged.block.trans (.setEnv _ { (u.against (callingSink s later)).env with sentReplies := later })
    rw [exec_eq_sendReply request, offered, sendReply, faults]
    exact calledBack_after block exchanged.trace _

/-! ### The byte source -/

theorem rxRearm_of_calls {s : State} {later : List (PartnerReply Unit)} (reactions : s.env.rearmReplies = .calls :: later) :
    rxRearm s = .error (calledBack .rxRearm (s.setEnv { s.env with rearmReplies := later })) := by
  unfold rxRearm
  rw [reactions]

theorem rxRearm_of_none {s : State} (reactions : s.env.rearmReplies = []) : rxRearm s = .ok (s.emit .rxRearm) := by
  unfold rxRearm
  rw [reactions]

theorem endDeliver_of_calls {s : State} {later : List (PartnerReply Unit)} (reactions : s.env.rearmReplies = .calls :: later) :
    endDeliver s = .fault (calledBack .rxRearm (s.setEnv { s.env with rearmReplies := later })) := by
  simp only [endDeliver, rxRearm_of_calls reactions]

/-- A byte source that calls back on the next RxRearm. -/
def callingSource (later : List (PartnerReply Unit)) : Backdrop := ⟨[], [], id, .calls :: later⟩

theorem against_callingSource {s : State} {later : List (PartnerReply Unit)} (reactions : s.env.rearmReplies = .calls :: later) :
    State.against (callingSource later) { s with env := { s.env with rearmReplies := [] } } = s := by
  simp only [State.against, callingSource, ← reactions, List.nil_append, List.append_nil, id]

/-- O58 for DELIVER: the chunk's bytes do not ask the byte source. -/
theorem deliver_of_callingSource {now : Millis} {bytes : List Byte} {s t : State} {later : List (PartnerReply Unit)}
    (reactions : s.env.rearmReplies = .calls :: later) (nonempty : bytes ≠ [])
    (h : exec (.deliver now bytes) { s with env := { s.env with rearmReplies := [] } } = .next t) :
    ∃ (before : List PortEvent) (final : State), t.trace = before ++ [.rxRearm] ∧
      exec (.deliver now bytes) s = .fault (.reentrant final) ∧ final.fault = some .reentrant ∧
      final.trace = before ++ [.unanswered .rxRearm] ∧ final.ctx = t.ctx ∧ final.sup = t.sup := by
  obtain ⟨notBusy, ⟨empty, -⟩ | ⟨u, chunk, ends⟩⟩ := execDeliver_next h
  · exact absurd empty nonempty
  obtain ⟨v, rearm, rfl⟩ := endDeliver_next ends
  obtain ⟨block, -, trace, -⟩ := rxRearm_ok rearm
  have fed := feedChunk_against (w := callingSource later) rfl rfl bytes
    ((State.delivering { s with env := { s.env with rearmReplies := [] } } now).setRest bytes)
  have same := against_callingSource (s := (s.delivering now).setRest bytes) reactions
  have faults : exec (.deliver now bytes) s =
      .fault (calledBack .rxRearm ((u.against (callingSource later)).setEnv
        { (u.against (callingSource later)).env with rearmReplies := later })) := by
    rw [exec, execDeliver_of_ne_nil (s := s) notBusy nonempty, ← same]
    refine (congrArg (andThen · endDeliver) (fed.trans (congrArg _ chunk))).trans ?_
    exact endDeliver_of_calls (s := u.against (callingSource later)) rfl
  exact ⟨u.trace, _, trace, faults, rfl, rfl, block.ctx.symm, block.sup.symm⟩

/-- O58 for TICK: the window and the policy do not ask the byte source, and a forced reset does. -/
theorem tick_of_callingSource {now : Millis} {s t : State} {later : List (PartnerReply Unit)}
    (reactions : s.env.rearmReplies = .calls :: later)
    (h : exec (.tick now) { s with env := { s.env with rearmReplies := [] } } = .next t) :
    (t.trace = s.trace ∧ exec (.tick now) s = .next { t with env := s.env }) ∨
    (t.trace = s.trace ++ [.rxRearm] ∧
      ∃ final, exec (.tick now) s = .fault (.reentrant final) ∧ final.fault = some .reentrant ∧
        final.trace = s.trace ++ [.unanswered .rxRearm] ∧ final.ctx = t.ctx ∧
        final.sup.lastForced = s.sup.lastForced ∧ final.sup.lastAct = s.sup.lastAct) := by
  obtain ⟨notBusy, ⟨policy, rfl⟩ | ⟨u, r, policy, reset, rfl⟩⟩ := execTick_next h
  · exact .inl ⟨rfl, execTick_of_none (s := s) notBusy policy⟩
  · obtain ⟨ctx, -, -, -, -, -, -, -, trace, -⟩ := forceReset_ok reset
    obtain ⟨forced, act⟩ := windowStep_timestamps now s.sup
    have calls := rxRearm_of_calls (s := ((s.setBusy true).setSup (windowStep now s.sup)).toIdle.setCrc Config.crcSeed) reactions
    have faults : exec (.tick now) s = .fault (calledBack .rxRearm
        ((((s.setBusy true).setSup (windowStep now s.sup)).toIdle.setCrc Config.crcSeed).setEnv { s.env with rearmReplies := later })) := by
      rw [exec, execTick_of_some (s := s) notBusy policy, forceReset, calls]
      rfl
    exact .inr ⟨trace, _, faults, rfl, rfl, ctx.symm, forced, act⟩

/-- Settles O58. -/
theorem byteSourceCallingBackFaults : Obligations.ByteSourceCallingBackFaults := fun _ _ _ _ _ reactions =>
  ⟨deliver_of_callingSource reactions, tick_of_callingSource reactions⟩

/-! ### A chunk cut in two -/

/-- No re-arm reaction listed, a given past and given bytes to come. -/
def unlistedSource (past : List PortEvent) (later : List Byte) : Backdrop := ⟨past, later, id, []⟩

theorem endDeliver_of_none {s : State} (reactions : s.env.rearmReplies = []) : endDeliver s = .next ((s.emit .rxRearm).setBusy false) := by
  simp only [endDeliver, rxRearm_of_none reactions]

/-- With no re-arm reaction listed, the events so far are a backdrop of the state without them. -/
theorem against_unlistedSource {s : State} (reactions : s.env.rearmReplies = []) (past : List PortEvent) :
    State.against (unlistedSource past []) { s with trace := [] } = { s with trace := past } := by
  simp only [State.against, unlistedSource, ← reactions, List.append_nil, id]

/-- A DELIVER of two pieces feeds the first, then the second. -/
theorem feedChunk_append {front back : List Byte} {s t : State} (reactions : s.env.rearmReplies = [])
    (h : feedChunk (front ++ back) (s.setRest (front ++ back)) = .next t) :
    ∃ u, feedChunk front (s.setRest front) = .next u ∧ feedChunk back (u.setRest back) = .next t := by
  have cut : s.setRest (front ++ back) = (s.setRest front).against (unlistedSource [] back) := by
    simp only [State.against, unlistedSource, State.setRest, ← reactions, List.nil_append, id]
  have whole := feedChunk_append_against (w := unlistedSource [] back) rfl front (s.setRest front)
  rw [← cut] at whole
  obtain ⟨v, first, second⟩ := andThen_eq_next (whole.symm.trans h)
  obtain ⟨u, first', rfl⟩ := mapResult_eq_next first
  obtain ⟨-, fed, rest⟩ := feedChunk_next first'
  have none : u.env.rearmReplies = [] := fed.rearm.trans reactions
  have same : u.against (unlistedSource [] back) = u.setRest back := by
    simp only [State.against, unlistedSource, State.setRest, rest rfl, ← none, List.nil_append, id]
  exact ⟨u, first', by rw [← same]; exact second⟩

/-- The bytes of a chunk do not look at the events before them. -/
theorem feedChunk_of_past {bytes : List Byte} {s t : State} (reactions : s.env.rearmReplies = []) (h : feedChunk bytes s = .next t)
    (past : List PortEvent) :
    ∃ events, t.trace = s.trace ++ events ∧ feedChunk bytes { s with trace := past } = .next { t with trace := past ++ events } := by
  have before : ∀ past, feedChunk bytes { s with trace := past } =
      mapResult (State.against (unlistedSource past [])) (feedChunk bytes { s with trace := [] }) := by
    intro past
    rw [← against_unlistedSource reactions]
    exact feedChunk_against (w := unlistedSource past []) rfl rfl bytes _
  obtain ⟨d, run, rfl⟩ := mapResult_eq_next ((before s.trace).symm.trans h)
  exact ⟨d.trace, rfl, by rw [before past, run]; rfl⟩

/-- A DELIVER at the same time right after one: the state the first one's bytes left, with its re-arm among the events. -/
theorem delivering_after_rearm {a : State} {now : Millis} (busy : a.busy = true) (act : a.sup.lastAct = now) :
    ((a.emit .rxRearm).setBusy false).delivering now = { a with trace := a.trace ++ [.rxRearm] } := by
  simp only [State.delivering, State.emit, State.setBusy, State.touch, ← busy, ← act]

/-- Settles O34: the second DELIVER feeds its bytes in the state the first piece leaves, but for one more RxRearm in the past. -/
theorem splittingAChunkChangesOnlyTheRearms : Obligations.SplittingAChunkChangesOnlyTheRearms := by
  intro now xs ys s t notBusy reactions nonemptyXs nonemptyYs h
  obtain ⟨-, ⟨empty, -⟩ | ⟨c, chunk, ends⟩⟩ := execDeliver_next h
  · exact absurd (List.append_eq_nil_iff.mp empty).1 nonemptyXs
  obtain ⟨a, first, second⟩ := feedChunk_append (s := s.delivering now) reactions chunk
  obtain ⟨-, fedFirst, -⟩ := feedChunk_next first
  obtain ⟨-, fedSecond, -⟩ := feedChunk_next second
  have noReaction : a.env.rearmReplies = [] := fedFirst.rearm.trans reactions
  have noReaction' : c.env.rearmReplies = [] := fedSecond.rearm.trans noReaction
  have act : a.sup.lastAct = now := by rw [fedFirst.sup]; rfl
  obtain ⟨events, trace, again⟩ := feedChunk_of_past (s := a.setRest ys) noReaction second (a.trace ++ [.rxRearm])
  have deliverXs : exec (.deliver now xs) s = .next ((a.emit .rxRearm).setBusy false) := by
    rw [exec, execDeliver_of_ne_nil notBusy nonemptyXs, first]
    exact endDeliver_of_none noReaction
  have deliverYs : exec (.deliver now ys) ((a.emit .rxRearm).setBusy false) =
      .next ((State.emit { c with trace := a.trace ++ [.rxRearm] ++ events } .rxRearm).setBusy false) := by
    rw [exec, execDeliver_of_ne_nil rfl nonemptyYs, delivering_after_rearm fedFirst.busy act]
    refine (congrArg (andThen · endDeliver) again).trans ?_
    exact endDeliver_of_none noReaction'
  cases (endDeliver_of_none noReaction').symm.trans ends
  refine ⟨_, _, deliverXs, deliverYs, rfl, rfl, rfl, rfl, ?_⟩
  have whole : c.trace = a.trace ++ events := trace
  simp [whole]

end Sys2Proof.Machine
end
